-- ==== Sys2Proof/Word.lean ====
section
/-! DEFINITION. The word types of the engine (spec 00_scope.md R9, R10): every value is an unsigned bit vector. -/

namespace Sys2Proof

/-- One stream element: 8 bits (R9). -/
abbrev Byte := BitVec 8

/-- A 16-bit value: the declared length, the received count, a command id, a checksum (R9). -/
abbrev U16 := BitVec 16

/-- The operand field `A` of a command word and the data of a response: 32 bits (R89, R95). -/
abbrev Word := BitVec 32

/-- A host command word: 40 bits (R89). -/
abbrev CmdWord := BitVec 40

end Sys2Proof
end

