-- ==== Sys2Proof/Machine/Bytes.lean ====
section
/-! DEFINITION. Byte order and bit assembly (spec 20_memory.md R63, R64; 30_encoding.md R109). -/

namespace Sys2Proof.Machine

/-- `v[7:0]`, the byte sent first (R63). -/
def lowByte (v : U16) : Byte := v.extractLsb' 0 8

/-- `v[15:8]`, the byte sent second (R63). -/
def highByte (v : U16) : Byte := v.extractLsb' 8 8

/-- `zext16(lo) | (hi << 8)` (R109). -/
def le16 (lo hi : Byte) : U16 := lo.setWidth 16 ||| (hi.setWidth 16 <<< 8)

/-- The two bytes of a 16-bit value in stream order (R63). -/
def bytesOf16 (v : U16) : List Byte := [lowByte v, highByte v]

/-- A flag as a bit of a 32-bit register, at position `pos` (R32). -/
def bitAt (b : Bool) (pos : Nat) : Word := (BitVec.ofBool b).setWidth 32 <<< pos

end Sys2Proof.Machine
end

