-- ==== Sys2Proof/Machine/CipherStream.lean ====
section
/-! DEFINITION. The cipher and the checksum (spec 40_cipher_crc.md R120 to R128). -/

namespace Sys2Proof.Machine

/-- `KEY`, the fixed keystream table (10_state.md R31). -/
def key : Vector Byte 16 :=
  #v[0x16, 0x6C, 0x14, 0xE6, 0x2E, 0x91, 0x0D, 0x40, 0x21, 0x35, 0xD5, 0x40, 0x13, 0x03, 0xE9, 0x80]

/-- "keystream byte at logical position *i* is `table[i mod 16]`" (R31). -/
def keyByte (pos : Nat) : Byte := key[pos % 16]'(Nat.mod_lt pos (by decide))

/-- `cipher_byte(b, pos) = b ^ KEY[pos mod 16]` (R120). -/
def cipherByte (b : Byte) (pos : Nat) : Byte := b ^^^ keyByte pos

/-- One of the 8 rounds of R122, on natural numbers: the shifted value has up to 17 bits. -/
def crcRound (c : Nat) : Nat :=
  let c := c <<< 1
  if c > 0xFFFF then (c ^^^ 0x1021) &&& 0xFFFF else c

/-- `crc_update(b, crc)` (R122). -/
def crcUpdate (b : Byte) (crc : U16) : U16 :=
  BitVec.ofNat 16 (Nat.repeat crcRound 8 (crc.toNat ^^^ (b.toNat <<< 8)))

/-- `crc_seq(seed, bs)`: the left fold of `crc_update` (R123). -/
def crcSeq (seed : U16) (bs : List Byte) : U16 := bs.foldl (fun crc b => crcUpdate b crc) seed

/-- The ciphered region's bytes from position `pos` on (R127). -/
def cipherFrom (pos : Nat) : List Byte → List Byte
  | [] => []
  | b :: bs => cipherByte b pos :: cipherFrom (pos + 1) bs

end Sys2Proof.Machine
end

