-- ==== Sys2Proof/Config.lean ====
section
/-! DEFINITION. The parameters of an implementation (spec 00_scope.md R8, 70_reset_and_hazards.md R355) and the
values the spec leaves open. No transaction changes them. -/

namespace Sys2Proof

/-- The three parameters that the rules read (R8). The meanings take them as an argument. -/
structure Params where
  /-- `ALT_SYNC_BYTE`, `none` where the implementation has no alternate sync byte. -/
  altSyncByte : Option Byte
  /-- `SCREEN_CMD_ID`. -/
  screenCmdId : U16
  /-- `MAX_PAYLOAD`. -/
  maxPayload : Nat
  deriving DecidableEq, Repr

/-- The legal values of R8: `ALT_SYNC_BYTE` is "never `some 0xAB`" and `2 ≤ MAX_PAYLOAD ≤ 65535`. -/
abbrev Params.Legal (p : Params) : Prop :=
  p.altSyncByte ≠ some 0xAB#8 ∧ 2 ≤ p.maxPayload ∧ p.maxPayload ≤ 65535

/-- The parameter values of the spec's reference configuration (R8), the two OPEN ones left as arguments. -/
def Params.reference (alt : Option Byte) (screen : U16) : Params :=
  { altSyncByte := alt, screenCmdId := screen, maxPayload := 65535 }

/-- OPEN (R8, D7; log entry 1): the alternate sync byte before the value `0xAB` is ruled out. -/
opaque Config.altSyncRaw : Option Byte

/-- OPEN (R8, D8; log entry 1): the screen command's id. -/
opaque Config.screenCmdId : U16

/-- OPEN (R8, D9; log entry 1): `MAX_PAYLOAD - 2`, so that the type is exactly the legal range. -/
opaque Config.maxPayloadRaw : Fin 65534

/-- `ALT_SYNC_BYTE`: any value but `some 0xAB` (R8). -/
def Config.altSyncByte : Option Byte :=
  if Config.altSyncRaw = some 0xAB#8 then none else Config.altSyncRaw

/-- `MAX_PAYLOAD`: any value from 2 to 65535 (R8). -/
def Config.maxPayload : Nat := Config.maxPayloadRaw.val + 2

/-- The parameters of the machine that `step` runs. -/
def Config.params : Params :=
  { altSyncByte := Config.altSyncByte
    screenCmdId := Config.screenCmdId
    maxPayload := Config.maxPayload }

/-- OPEN (R8, R361, D26; log entry 6): the depth of a circuit's event queue in bytes, `none` for unbounded.
No step reads it: "the model's `EVQ` is unbounded". -/
opaque Config.evqDepth : Option Nat

/-- OPEN (R8, R361, D26; log entry 6): the depth of a circuit's transmit queue in bytes, `none` for unbounded.
No step reads it: "the model's `TXQ` is unbounded". -/
opaque Config.txqDepth : Option Nat

/-- OPEN (R8, R70; log entry 7): where the engine sits in a containing system; read by no rule. -/
opaque Config.upeBase : Nat

/-- FREE VALUE (log entry 4): whether a response that the host has not taken yet is still offered after the `rst`
input. The spec does not say. -/
opaque Config.rstKeepsResponses : Bool

end Sys2Proof
end

