-- ==== Sys2Proof/Syntax.lean ====
section
/-! DEFINITION. The transactions of the engine (spec 30_encoding.md R90, R91; spec/opcode_table.json), the forms in
which they arrive on the input ports, and the error codes of a host command (60_exceptions.md R311). -/

namespace Sys2Proof

/-- One constructor per row of spec/opcode_table.json, its fields those of R91. -/
inductive Instr where
  /-- FEED: the receive-port transaction (R164), `b = rx_data[7:0]`. -/
  | feed (b : Byte)
  /-- NOP (R280). -/
  | nop
  /-- PRST: reset the frame decoder only (R281). -/
  | prst
  /-- SRST: reset the whole engine (R283). -/
  | srst
  /-- RDREG (R282), `reg = A[7:0]`. -/
  | rdreg (reg : Byte)
  /-- WRREG (R284), `reg = A[7:0]`, `value = A[23:8]`. -/
  | wrreg (reg : Byte) (value : U16)
  /-- TXBEGIN (R202), `cmd = A[15:0]`. -/
  | txbegin (cmd : U16)
  /-- TXUINT (R203), `v = A[31:0]`. -/
  | txuint (v : Word)
  /-- TXBYTE (R204), `b = A[7:0]`; `ignored = A[31:8]` is "read and discarded" (R91; log entry 10). -/
  | txbyte (b : Byte) (ignored : BitVec 24)
  /-- TXEND (R206). -/
  | txend
  /-- BMRD (R250), `col = A[7:0]`, `group = A[15:8]`. -/
  | bmrd (col group : Byte)
  /-- CIPH (R125), `b = A[7:0]`, `pos = A[23:8]`. -/
  | ciph (b : Byte) (pos : U16)
  /-- CRCU (R126), `b = A[7:0]`, `crc = A[23:8]`. -/
  | crcu (b : Byte) (crc : U16)
  deriving DecidableEq, Repr

/-- The opcodes of the host command port (R90), by name. FEED has none: "it is selected by the port". -/
inductive Opcode where
  | nop | prst | srst | rdreg | wrreg | txbegin | txuint | txbyte | txend | bmrd | ciph | crcu
  deriving DecidableEq, Repr

/-- A transaction as it arrives on an input port: the engine's form of an instruction word. -/
inductive PortWord where
  /-- One byte on the receive port (R87). -/
  | rx (b : Byte)
  /-- One word on the host command port (R89). -/
  | cmd (w : CmdWord)
  deriving DecidableEq, Repr

/-- The errors a host command can return (R311). Codes 0 and 5 to 255 are never returned. -/
inductive CmdError where
  /-- Code 1: the opcode is not in R90. -/
  | illegalOpcode
  /-- Code 2: a reserved-zero bit is 1, or the operand names no unit the command may access. -/
  | badOperand
  /-- Code 3: no frame is being staged. -/
  | txNotActive
  /-- Code 4: the bytes do not fit the staging buffer. -/
  | txOverflow
  deriving DecidableEq, Repr

end Sys2Proof
end

