-- ==== Sys2Proof/Machine/State.lean ====
section
/-! DEFINITION. The state of the engine (spec 10_state.md R20), its reset value (R46), and the reasons a step can
stop (there are none in use: 60_exceptions.md R316). -/

namespace Sys2Proof.Machine

/-- The decoder's stage (R23). "Values 10 to 15 are never held": the type has exactly the ten. -/
inductive Stage where
  | idle | sync2 | lenlo | lenhi | payload | cklo | ckhi | foot1 | foot2 | alt
  deriving DecidableEq, Repr

/-- The configuration register's fields (R30); its reserved bits hold no storage. -/
structure Cfg where
  strict : Bool
  irqen : Bool
  deriving DecidableEq, Repr

/-- The sticky flags of STATUS (R32). -/
structure Flags where
  fmterr : Bool
  crcerr : Bool
  short : Bool
  ovf : Bool
  altseen : Bool
  cmderr : Bool
  txovf : Bool
  deriving DecidableEq, Repr

/-- An element of the event queue (R41). -/
inductive Event where
  | frame (cmd : U16) (args : List Byte) (crcCalc crcRecv : U16) (ok : Bool)
  | bitmapChanged
  | formatError
  deriving DecidableEq, Repr

/-- A response word (R95): `rsp_err` and `rsp_data[31:0]`. -/
structure Response where
  err : Bool
  data : Word
  deriving DecidableEq, Repr

/-- What the outside offers at one point in time (20_memory.md R72, 30_encoding.md R108; log entry 2). -/
inductive Offer where
  /-- A byte of the RX source or a command word of the host. -/
  | input (w : PortWord)
  /-- `rsp_ready`: the host takes a response. -/
  | rspReady
  /-- `evt_ready`: the consumer takes an event byte. -/
  | evtReady
  /-- `tx_ready`: the transport takes a byte. -/
  | txReady
  /-- A rising clock edge with `rst = 1` (R351). -/
  | rst
  deriving DecidableEq, Repr

/-- The retained bitmap (R35): 64 rows, row 0 at the top, of 128 one-bit pixels; bit `c` of a row is column `c`. -/
abbrev Bitmap := Vector (BitVec 128) 64

/-- The engine's state: the elements of R20, then what the ports imply, then the model's own input list. -/
structure State where
  /-- `STAGE` (R23). -/
  stage : Stage
  /-- `LEN` (R24). -/
  len : U16
  /-- `RCNT` (R25). -/
  rcnt : U16
  /-- `ACC` (R26). -/
  acc : List Byte
  /-- `CRC_CALC` (R28). -/
  crcCalc : U16
  /-- `CRC_RECV` (R29). -/
  crcRecv : U16
  /-- `CFG` (R30). -/
  cfg : Cfg
  /-- The sticky flags of `STATUS` (R32). -/
  flags : Flags
  /-- `TXACT` (R34). -/
  txact : Bool
  /-- `TXS` (R34). -/
  txs : List Byte
  /-- `BM` (R35). -/
  bm : Bitmap
  /-- `EVQ` (R41), head first. -/
  evq : List Event
  /-- `TXQ` (R42), head first. -/
  txq : List Byte
  /-- Bytes of the head event's record already taken (implied by R100; log entry 5). -/
  evtPos : Nat
  /-- Responses produced and not yet taken, oldest first (R95, R108; log entry 3). -/
  rspq : List Response
  /-- The model's own field: what the outside offers, in the order in which it happens (R72, R73; log entry 2). -/
  offers : List Offer
  deriving DecidableEq, Repr

/-- The configuration after reset (R46). -/
def Cfg.reset : Cfg := { strict := false, irqen := false }

/-- The sticky flags after reset (R46). -/
def Flags.reset : Flags :=
  { fmterr := false, crcerr := false, short := false, ovf := false, altseen := false, cmderr := false, txovf := false }

/-- Every pixel 0 (R46). -/
def Bitmap.zero : Bitmap := Vector.replicate 64 0#128

/-- The engine right after power-on (R46, R350), with nothing offered. -/
def State.reset : State :=
  { stage := .idle
    len := 0
    rcnt := 0
    acc := []
    crcCalc := 0
    crcRecv := 0
    cfg := Cfg.reset
    flags := Flags.reset
    txact := false
    txs := []
    bm := Bitmap.zero
    evq := []
    txq := []
    evtPos := 0
    rspq := []
    offers := [] }

/-- The faults that stop the engine. There is no constructor: "the engine has no fault that stops it"
(93_implementation_defined.md, part 1), "After any error the engine accepts the next transaction normally" (R316). -/
inductive Fault
  deriving DecidableEq, Repr

/-- The refusals of the model. No arm of `exec` uses one. -/
inductive Refusal where
  /-- Raised by an arm of `exec` whose instruction has no meaning in the model (safe: the run stops). None is left. -/
  | notModelled (mnemonic : String)
  deriving DecidableEq, Repr

/-- The outcome of a step of this machine. -/
abbrev Result := Host.Outcome State Fault Refusal

end Sys2Proof.Machine
end

