-- ==== Sys2Proof/Machine/Flags.lean ====
section
/-! DEFINITION. The STATUS and CFG registers and the flag rules (spec 10_state.md R23, R30, R32, R33, R38;
44_session_control.md R282, R284; 60_exceptions.md R311, R312). -/

namespace Sys2Proof.Machine

/-- The numeric encoding of `STAGE` (R23). -/
def Stage.code : Stage → BitVec 4
  | .idle => 0
  | .sync2 => 1
  | .lenlo => 2
  | .lenhi => 3
  | .payload => 4
  | .cklo => 5
  | .ckhi => 6
  | .foot1 => 7
  | .foot2 => 8
  | .alt => 9

/-- `STATUS.EVPEND = 1` exactly when `EVQ ≠ []` (R41). -/
def evPend (s : State) : Bool := !s.evq.isEmpty

/-- The value RDREG returns for `STATUS` (R282): reserved bits read as 0. -/
def statusWord (s : State) : Word :=
  s.stage.code.setWidth 32 ||| bitAt s.flags.fmterr 8 ||| bitAt s.flags.crcerr 9 ||| bitAt s.flags.short 10 |||
    bitAt s.flags.ovf 11 ||| bitAt s.flags.altseen 12 ||| bitAt s.flags.cmderr 13 ||| bitAt s.flags.txovf 14 |||
    bitAt s.txact 16 ||| bitAt (evPend s) 17

/-- The value RDREG returns for `CFG` (R282). -/
def cfgWord (c : Cfg) : Word := bitAt c.strict 0 ||| bitAt c.irqen 1

/-- A WRREG of `value` to `CFG` (R284): bits 2 to 15 are ignored. -/
def cfgOfValue (value : U16) : Cfg := { strict := value.getLsbD 0, irqen := value.getLsbD 1 }

/-- A WRREG of `value` to `STATUS` (R284): a 1 in bits 8 to 14 clears that flag, every other bit is ignored. -/
def Flags.clearBy (f : Flags) (value : U16) : Flags :=
  { fmterr := f.fmterr && !value.getLsbD 8
    crcerr := f.crcerr && !value.getLsbD 9
    short := f.short && !value.getLsbD 10
    ovf := f.ovf && !value.getLsbD 11
    altseen := f.altseen && !value.getLsbD 12
    cmderr := f.cmderr && !value.getLsbD 13
    txovf := f.txovf && !value.getLsbD 14 }

/-- The code of an error (R311). -/
def errorCode : CmdError → Byte
  | .illegalOpcode => 1
  | .badOperand => 2
  | .txNotActive => 3
  | .txOverflow => 4

/-- `STATUS.CMDERR` is set by codes 1, 2 and 3, not by code 4 (R312). -/
def setsCmdErr : CmdError → Bool
  | .illegalOpcode => true
  | .badOperand => true
  | .txNotActive => true
  | .txOverflow => false

end Sys2Proof.Machine
end

