-- ==== Sys2Proof/Machine/Operands.lean ====
section
/-! DEFINITION. The register operand of RDREG and WRREG (spec 10_state.md R37, R38) and the serialised integer
operand of TXUINT (42_command_encoder.md R200). -/

namespace Sys2Proof.Machine

/-- The registers of R37. -/
inductive RegName where
  | status | cfg | len | rcnt | crcCalc | crcRecv | txlen
  /-- `KEY_i`. -/
  | key (i : Fin 16)
  deriving DecidableEq, Repr

/-- The register a number names (R37); `none` for an unassigned number. -/
def regOf (reg : Byte) : Option RegName :=
  let n := reg.toNat
  if n = 0x00 then some .status
  else if n = 0x01 then some .cfg
  else if n = 0x02 then some .len
  else if n = 0x03 then some .rcnt
  else if n = 0x04 then some .crcCalc
  else if n = 0x05 then some .crcRecv
  else if n = 0x06 then some .txlen
  else if h : 0x10 ≤ n ∧ n ≤ 0x1F then some (.key ⟨n - 0x10, by omega⟩)
  else none

/-- The value of a register, "returned zero-extended to 32 bits" (R37). -/
def readReg (r : RegName) (s : State) : Word :=
  match r with
  | .status => statusWord s
  | .cfg => cfgWord s.cfg
  | .len => s.len.setWidth 32
  | .rcnt => s.rcnt.setWidth 32
  | .crcCalc => s.crcCalc.setWidth 32
  | .crcRecv => s.crcRecv.setWidth 32
  | .txlen => (BitVec.ofNat 16 s.txs.length).setWidth 32
  | .key i => (keyByte i.val).setWidth 32

/-- `ser_uint(v)` (R200): 1, 2 or 4 bytes, little-endian. -/
def serUint (v : Word) : List Byte :=
  if v.toNat < 0x100 then [v.extractLsb' 0 8]
  else if v.toNat < 0x10000 then [v.extractLsb' 0 8, v.extractLsb' 8 8]
  else [v.extractLsb' 0 8, v.extractLsb' 8 8, v.extractLsb' 16 8, v.extractLsb' 24 8]

end Sys2Proof.Machine
end

