-- ==== Sys2Proof/Machine/Bitmap.lean ====
section
/-! DEFINITION. Access to the retained bitmap (spec 10_state.md R35, R36; 20_memory.md R62). -/

namespace Sys2Proof.Machine

/-- `BM[r][c]` (R35); a pixel outside the grid does not exist and reads as off. -/
def pixel (bm : Bitmap) (r c : Nat) : Bool :=
  match bm[r]? with
  | some row => row.getLsbD c
  | none => false

/-- One row with the pixel of column `c` set to `v`. -/
def setColumn (row : BitVec 128) (c : Nat) (v : Bool) : BitVec 128 :=
  if v then row ||| BitVec.twoPow 128 c else row &&& ~~~ BitVec.twoPow 128 c

/-- `BM[r][c] <- v`; nothing outside the grid is written (R36). -/
def setPixel (bm : Bitmap) (r c : Nat) (v : Bool) : Bitmap :=
  if h : r < 64 then bm.set r (setColumn bm[r] c v) h else bm

/-- The column byte at `(col, group)` (R62): bit `i` is `BM[8·group + i][col]`. -/
def columnByte (bm : Bitmap) (col group : Nat) : Byte :=
  (List.range 8).foldl
    (fun v i => if pixel bm (8 * group + i) col then v ||| BitVec.twoPow 8 i else v) 0#8

end Sys2Proof.Machine
end

