-- ==== Sys2Proof/Machine/Ops.lean ====
section
/-! DEFINITION. The shared operations of the rules (spec 00_scope.md R11): responding, raising an error (the engine's
one form of taking an exception: it has no traps and no return from one, 60_exceptions.md R312, R316, R317), emitting an
event, sending bytes, the return to the idle stage, and reset. -/

namespace Sys2Proof.Machine

/-- `respond(v)`: the response of a host command with data `v` and no error (R11, R95). -/
def respond (v : Word) (s : State) : State :=
  { s with rspq := s.rspq ++ [{ err := false, data := v }] }

/-- `raise <Error>` (R312): the error response, and `STATUS.CMDERR <- 1` for codes 1, 2 and 3. -/
def raise (e : CmdError) (s : State) : State :=
  { s with
    flags := { s.flags with cmderr := s.flags.cmderr || setsCmdErr e }
    rspq := s.rspq ++ [{ err := true, data := (errorCode e).setWidth 32 }] }

/-- `emit E` (R11, R41): append at the tail of `EVQ`. -/
def emit (e : Event) (s : State) : State := { s with evq := s.evq ++ [e] }

/-- `send bs` (R11, R42): append at the tail of `TXQ`. -/
def send (bs : List Byte) (s : State) : State := { s with txq := s.txq ++ bs }

/-- `to_idle()` (41_frame_decoder.md R163). -/
def toIdle (s : State) : State := { s with stage := .idle, len := 0, rcnt := 0, acc := [] }

/-- Every state element of R20 at its reset value (R46, R283, R350). The responses not yet taken and the offers are
not elements of R20 and stay; nothing of the emptied `EVQ` has been sent (log entries 3 and 5). -/
def resetElements (s : State) : State := { State.reset with rspq := s.rspq, offers := s.offers }

/-- A clock edge with `rst = 1` (R351): the same reset, and no transfer on any port. Whether a response not yet taken
survives is a free value (log entry 4). -/
def resetEdge (s : State) : State :=
  { resetElements s with rspq := if Config.rstKeepsResponses then s.rspq else [] }

end Sys2Proof.Machine
end

