-- ==== Sys2Proof/Machine/CommandEncoder.lean ====
section
/-! DEFINITION. The command encoder (spec 42_command_encoder.md R200 to R208). -/

namespace Sys2Proof.Machine

/-- `TX_MAX` (00_scope.md R8). -/
def txMax : Nat := 65535

/-- `encode_frame(P)` (R201): sync, length, ciphered payload, ciphered checksum, footer. -/
def encodeFrame (P : List Byte) : List Byte :=
  let n := BitVec.ofNat 16 P.length
  let c := crcSeq 0 P
  [0xAB, 0xCD, lowByte n, highByte n] ++ cipherFrom 0 P ++
    [cipherByte (lowByte c) P.length, cipherByte (highByte c) (P.length + 1)] ++ [0xDC, 0xBA]

/-- `tx_append(bs)` (R205) followed by `respond(0)`: bytes that do not fit abort the staged frame. -/
def txAppend (bs : List Byte) (s : State) : State :=
  if txMax < s.txs.length + bs.length then
    raise .txOverflow { s with txs := [], txact := false, flags := { s.flags with txovf := true } }
  else respond 0 { s with txs := s.txs ++ bs }

/-- TXBEGIN (R202). -/
def execTxbegin (cmd : U16) (s : State) : Result :=
  .next (respond 0 { s with txs := bytesOf16 cmd, txact := true })

/-- TXUINT (R203). -/
def execTxuint (v : Word) (s : State) : Result :=
  .next (if s.txact then txAppend (serUint v) s else raise .txNotActive s)

/-- TXBYTE (R204): `A[31:8]` is ignored. -/
def execTxbyte (b : Byte) (_ignored : BitVec 24) (s : State) : Result :=
  .next (if s.txact then txAppend [b] s else raise .txNotActive s)

/-- TXEND (R206): the response is the frame's length, `N + 8`. -/
def execTxend (s : State) : Result :=
  .next
    (if s.txact then
       let f := encodeFrame s.txs
       respond (BitVec.ofNat 32 f.length) { send f s with txs := [], txact := false }
     else raise .txNotActive s)

/-- The command ids the source lists (R207), informative: "The engine interprets none of them". -/
def commandIds : List (String × U16) :=
  [ ("Hello", 0x0514), ("GetRssi", 0x0527), ("KeyPress", 0x0801), ("GetScreen", 0x0803), ("Scan", 0x0808),
    ("ScanAdjust", 0x0809), ("ScanReply", 0x0908), ("WriteRegisters", 0x0850), ("ReadRegisters", 0x0851),
    ("RegisterInfo", 0x0951), ("WriteEeprom", 0x051D), ("ReadEeprom", 0x051B) ]

end Sys2Proof.Machine
end

