-- ==== Sys2Proof/Machine/ScreenDecoder.lean ====
section
/-! DEFINITION. The screen decoder and BMRD (spec 43_screen_decoder.md R240 to R251). -/

namespace Sys2Proof.Machine

/-- `screen_format_ok(args)` (R242). -/
def screenFormatOk (args : List Byte) : Bool :=
  decide (3 ≤ args.length) && decide (args.length % 3 = 0)

/-- One triplet (R244 to R246): discarded whole if out of range, else it sets all 8 pixels of its group. `row_base` is
exact (R249). -/
def applyTriplet (bm : Bitmap) (m col g : Byte) : Bitmap :=
  let rowBase := 8 * g.toNat
  if 128 ≤ col.toNat ∨ 64 ≤ rowBase then bm
  else
    (List.range 8).foldl
      (fun bm i => if rowBase + i < 64 then setPixel bm (rowBase + i) col.toNat (m.getLsbD i) else bm) bm

/-- The triplets in payload order (R244, R248). -/
def applyTriplets (bm : Bitmap) : List Byte → Bitmap
  | m :: col :: g :: rest => applyTriplets (applyTriplet bm m col g) rest
  | _ => bm

/-- `screen_apply(diff, T)` (R243, R244): a full update starts from an all-zero bitmap. -/
def screenApply (diff : Byte) (T : List Byte) (bm : Bitmap) : Bitmap :=
  applyTriplets (if diff = 0 then Bitmap.zero else bm) T

/-- `screen_dispatch(args)` (R240). The offset bytes `args[0]`, `args[1]` are not read (R251). -/
def screenDispatch (args : List Byte) (s : State) : State :=
  if screenFormatOk args then
    emit .bitmapChanged { s with bm := screenApply (args.getD 2 0) (args.drop 3) s.bm }
  else
    emit .formatError { s with flags := { s.flags with fmterr := true } }

/-- BMRD (R250). -/
def execBmrd (col group : Byte) (s : State) : Result :=
  .next
    (if 128 ≤ col.toNat ∨ 8 ≤ group.toNat then raise .badOperand s
     else respond ((columnByte s.bm col.toNat group.toNat).setWidth 32) s)

end Sys2Proof.Machine
end

