-- ==== Sys2Proof/Machine/FrameDecoder.lean ====
section
/-! DEFINITION. The frame decoder (spec 41_frame_decoder.md R150 to R170): one definition per stage, over the
parameters of 00_scope.md R8. -/

namespace Sys2Proof.Machine

/-- Stage IDLE (R150). -/
def feedIdle (p : Params) (b : Byte) (s : State) : State :=
  if b = 0xAB#8 then { s with stage := .sync2 }
  else if p.altSyncByte = some b then
    { s with stage := .alt, flags := { s.flags with altseen := true } }
  else s

/-- Stage SYNC2 (R151). -/
def feedSync2 (b : Byte) (s : State) : State :=
  if b = 0xCD#8 then { s with stage := .lenlo } else toIdle s

/-- Stage LENLO (R153). -/
def feedLenlo (b : Byte) (s : State) : State := { s with len := b.setWidth 16, stage := .lenhi }

/-- Stage LENHI (R154 to R156). -/
def feedLenhi (p : Params) (b : Byte) (s : State) : State :=
  let len := s.len ||| (b.setWidth 16 <<< 8)
  let s := { s with len := len, acc := [], rcnt := 0, crcCalc := 0 }
  if p.maxPayload < len.toNat then toIdle { s with flags := { s.flags with ovf := true } }
  else if len = 0 then { s with stage := .cklo }
  else { s with stage := .payload }

/-- Stage PAYLOAD (R157): the byte is deciphered at position `RCNT` and the plaintext is folded (R128). -/
def feedPayload (b : Byte) (s : State) : State :=
  let d := cipherByte b s.rcnt.toNat
  { s with
    acc := s.acc ++ [d]
    crcCalc := crcUpdate d s.crcCalc
    rcnt := s.rcnt + 1
    stage := if s.rcnt + 1 = s.len then .cklo else .payload }

/-- Stage CKLO (R158): position `LEN`. -/
def feedCklo (b : Byte) (s : State) : State :=
  { s with crcRecv := (cipherByte b s.len.toNat).setWidth 16, stage := .ckhi }

/-- Stage CKHI (R159): position `LEN + 1`, exact. -/
def feedCkhi (b : Byte) (s : State) : State :=
  { s with
    crcRecv := s.crcRecv ||| ((cipherByte b (s.len.toNat + 1)).setWidth 16 <<< 8)
    stage := .foot1 }

/-- Stage FOOT1 (R160). -/
def feedFoot1 (b : Byte) (s : State) : State :=
  if b = 0xDC#8 then { s with stage := .foot2 } else toIdle s

/-- `complete(ok)` (R162): the FRAME event, then the dispatch of the screen command; any other command has no further
action (44_session_control.md R285). -/
def complete (p : Params) (ok : Bool) (s : State) : State :=
  let cmd := le16 (s.acc.getD 0 0) (s.acc.getD 1 0)
  let args := s.acc.drop 2
  let s := emit (.frame cmd args s.crcCalc s.crcRecv ok) s
  if cmd = p.screenCmdId then screenDispatch args s else s

/-- Stage FOOT2 (R161), in its order of checks: footer, checksum report, short frame, strict drop, completion. -/
def feedFoot2 (p : Params) (b : Byte) (s : State) : State :=
  if b ≠ 0xBA#8 then toIdle s
  else
    let ok := decide (s.crcCalc = s.crcRecv)
    let s := { s with flags := { s.flags with crcerr := s.flags.crcerr || !ok } }
    if s.acc.length < 2 then toIdle { s with flags := { s.flags with short := true } }
    else if s.cfg.strict && !ok then toIdle s
    else toIdle (complete p ok s)

/-- FEED (R164): the rule of the current stage. In ALT every byte is absorbed (R152). -/
def feedByte (p : Params) (b : Byte) (s : State) : State :=
  match s.stage with
  | .idle => feedIdle p b s
  | .sync2 => feedSync2 b s
  | .alt => s
  | .lenlo => feedLenlo b s
  | .lenhi => feedLenhi p b s
  | .payload => feedPayload b s
  | .cklo => feedCklo b s
  | .ckhi => feedCkhi b s
  | .foot1 => feedFoot1 b s
  | .foot2 => feedFoot2 p b s

/-- Bytes fed one after the other (30_encoding.md R107 `FEEDS`). -/
def feedBytes (p : Params) (bs : List Byte) (s : State) : State :=
  bs.foldl (fun s b => feedByte p b s) s

/-- FEED (R164): no response, no fault. -/
def execFeed (b : Byte) (s : State) : Result := .next (feedByte Config.params b s)

end Sys2Proof.Machine
end

