-- ==== Sys2Proof/Machine/SessionControl.lean ====
section
/-! DEFINITION. Session control and register access (spec 44_session_control.md R280 to R284) and the two primitive
operations (40_cipher_crc.md R125, R126). -/

namespace Sys2Proof.Machine

/-- NOP (R280). -/
def execNop (s : State) : Result := .next (respond 0 s)

/-- PRST (R281). -/
def execPrst (s : State) : Result := .next (respond 0 (toIdle s))

/-- SRST (R283): "the response of SRST is delivered after the reset". -/
def execSrst (s : State) : Result := .next (respond 0 (resetElements s))

/-- RDREG (R282). -/
def execRdreg (reg : Byte) (s : State) : Result :=
  .next
    (match regOf reg with
     | some r => respond (readReg r s) s
     | none => raise .badOperand s)

/-- WRREG (R284): STATUS is write-1-to-clear, CFG is written, every other number is refused. -/
def execWrreg (reg : Byte) (value : U16) (s : State) : Result :=
  .next
    (match regOf reg with
     | some .status => respond 0 { s with flags := s.flags.clearBy value }
     | some .cfg => respond 0 { s with cfg := cfgOfValue value }
     | _ => raise .badOperand s)

/-- CIPH (R125). -/
def execCiph (b : Byte) (pos : U16) (s : State) : Result :=
  .next (respond ((cipherByte b pos.toNat).setWidth 32) s)

/-- CRCU (R126). -/
def execCrcu (b : Byte) (crc : U16) (s : State) : Result :=
  .next (respond ((crcUpdate b crc).setWidth 32) s)

end Sys2Proof.Machine
end

