-- ==== Sys2Proof/Machine/Dispatch.lean ====
section
/-! DEFINITION. One arm per transaction of spec/opcode_table.json. -/

namespace Sys2Proof.Machine

def exec (i : Instr) (s : State) : Host.Outcome State Fault Refusal :=
  match i with
  | .feed b => Sys2Proof.Machine.execFeed b s
  | .nop => Sys2Proof.Machine.execNop s
  | .prst => Sys2Proof.Machine.execPrst s
  | .srst => Sys2Proof.Machine.execSrst s
  | .rdreg reg => Sys2Proof.Machine.execRdreg reg s
  | .wrreg reg value => Sys2Proof.Machine.execWrreg reg value s
  | .txbegin cmd => Sys2Proof.Machine.execTxbegin cmd s
  | .txuint v => Sys2Proof.Machine.execTxuint v s
  | .txbyte b ignored => Sys2Proof.Machine.execTxbyte b ignored s
  | .txend => Sys2Proof.Machine.execTxend s
  | .bmrd col group => Sys2Proof.Machine.execBmrd col group s
  | .ciph b pos => Sys2Proof.Machine.execCiph b pos s
  | .crcu b crc => Sys2Proof.Machine.execCrcu b crc s

end Sys2Proof.Machine
end

