-- ==== Sys2Proof/WellFormed.lean ====
section
/-! DEFINITION. The checks on an instruction's operands that need no state: the operand names a unit the engine has
(the BAD_OPERAND value checks of spec 60_exceptions.md R311). An instruction that fails them is still decoded and
executed: its effect is to be refused with BAD_OPERAND. -/

namespace Sys2Proof

/-- Assigned register numbers (10_state.md R37): 0x00 to 0x06 and 0x10 to 0x1F. -/
def regAssigned (reg : Byte) : Bool :=
  decide (reg.toNat ≤ 0x06) || (decide (0x10 ≤ reg.toNat) && decide (reg.toNat ≤ 0x1F))

/-- Register numbers that WRREG may write (44_session_control.md R284): STATUS 0x00 and CFG 0x01. -/
def regWritable (reg : Byte) : Bool := decide (reg.toNat ≤ 0x01)

/-- A column byte of the bitmap space (20_memory.md R62): `col < 128` and `group < 8`. -/
def columnByteExists (col group : Byte) : Bool :=
  decide (col.toNat < 128) && decide (group.toNat < 8)

/-- The operands name units the engine has. Every other operand takes any value of its field. -/
def Instr.wellFormed : Instr → Bool
  | .feed _ => true
  | .nop => true
  | .prst => true
  | .srst => true
  | .rdreg reg => regAssigned reg
  | .wrreg reg _ => regWritable reg
  | .txbegin _ => true
  | .txuint _ => true
  | .txbyte _ _ => true
  | .txend => true
  | .bmrd col group => columnByteExists col group
  | .ciph _ _ => true
  | .crcu _ _ => true

end Sys2Proof
end

