-- ==== Sys2Proof/Decode.lean ====
section
/-! DEFINITION. Decoding and encoding of transactions (spec 30_encoding.md R87 to R94; 60_exceptions.md R313). -/

namespace Sys2Proof

/-- `op = w[39:32]` (R89). -/
def opField (w : CmdWord) : Byte := w.extractLsb' 32 8

/-- `A = w[31:0]` (R89). -/
def argField (w : CmdWord) : Word := w.extractLsb' 0 32

/-- The opcode map (R90). -/
def opcodeMap : List (Byte × Opcode) :=
  [ (0x00, .nop), (0x01, .prst), (0x02, .srst), (0x08, .rdreg), (0x09, .wrreg),
    (0x10, .txbegin), (0x11, .txuint), (0x12, .txbyte), (0x13, .txend),
    (0x20, .bmrd), (0x30, .ciph), (0x31, .crcu) ]

/-- The opcode a byte names; `none` for an unassigned one (R92). -/
def opcodeOf (op : Byte) : Option Opcode := opcodeMap.lookup op

/-- The reserved-zero mask of `A` (R91, last column). -/
def reservedMask : Opcode → Word
  | .nop => 0xFFFFFFFF
  | .prst => 0xFFFFFFFF
  | .srst => 0xFFFFFFFF
  | .rdreg => 0xFFFFFF00
  | .wrreg => 0xFF000000
  | .txbegin => 0xFFFF0000
  | .txuint => 0x00000000
  | .txbyte => 0x00000000
  | .txend => 0xFFFFFFFF
  | .bmrd => 0xFFFF0000
  | .ciph => 0xFF000000
  | .crcu => 0xFF000000

/-- The operand fields of each opcode (R91): slices of `A`, all unsigned. -/
def operandsOf (o : Opcode) (a : Word) : Instr :=
  match o with
  | .nop => .nop
  | .prst => .prst
  | .srst => .srst
  | .rdreg => .rdreg (a.extractLsb' 0 8)
  | .wrreg => .wrreg (a.extractLsb' 0 8) (a.extractLsb' 8 16)
  | .txbegin => .txbegin (a.extractLsb' 0 16)
  | .txuint => .txuint a
  | .txbyte => .txbyte (a.extractLsb' 0 8) (a.extractLsb' 8 24)
  | .txend => .txend
  | .bmrd => .bmrd (a.extractLsb' 0 8) (a.extractLsb' 8 8)
  | .ciph => .ciph (a.extractLsb' 0 8) (a.extractLsb' 8 16)
  | .crcu => .crcu (a.extractLsb' 0 8) (a.extractLsb' 8 16)

/-- A host command word, in the check order of R313: first the opcode (R92), then the reserved-zero bits (R93). -/
def decodeCmd (w : CmdWord) : Except CmdError Instr :=
  match opcodeOf (opField w) with
  | none => .error .illegalOpcode
  | some o =>
    if argField w &&& reservedMask o = 0 then .ok (operandsOf o (argField w)) else .error .badOperand

/-- A transaction as it arrives. Every byte on the receive port is a FEED (R87). -/
def decode : PortWord → Except CmdError Instr
  | .rx b => .ok (.feed b)
  | .cmd w => decodeCmd w

/-- The command word with opcode `op` and operand field `a` (R89): `op << 32 | a` (R106). -/
def cmdWord (op : Byte) (a : Word) : CmdWord := (op.setWidth 40 <<< 32) ||| a.setWidth 40

/-- The port word of a transaction: the byte of FEED, else the word of R106's table, with the fields where R90 and R91 put
them and 0 in every reserved bit. -/
def encode : Instr → PortWord
  | .feed b => .rx b
  | .nop => .cmd (cmdWord 0x00 0)
  | .prst => .cmd (cmdWord 0x01 0)
  | .srst => .cmd (cmdWord 0x02 0)
  | .rdreg reg => .cmd (cmdWord 0x08 (reg.setWidth 32))
  | .wrreg reg value => .cmd (cmdWord 0x09 ((value.setWidth 32 <<< 8) ||| reg.setWidth 32))
  | .txbegin cmd => .cmd (cmdWord 0x10 (cmd.setWidth 32))
  | .txuint v => .cmd (cmdWord 0x11 v)
  | .txbyte b ignored => .cmd (cmdWord 0x12 ((ignored.setWidth 32 <<< 8) ||| b.setWidth 32))
  | .txend => .cmd (cmdWord 0x13 0)
  | .bmrd col group => .cmd (cmdWord 0x20 ((group.setWidth 32 <<< 8) ||| col.setWidth 32))
  | .ciph b pos => .cmd (cmdWord 0x30 ((pos.setWidth 32 <<< 8) ||| b.setWidth 32))
  | .crcu b crc => .cmd (cmdWord 0x31 ((crc.setWidth 32 <<< 8) ||| b.setWidth 32))

/-- A row's word as spec/opcode_table.json numbers its bits: the 8-bit row FEED is a receive-port byte, the 40-bit rows
are host command words. -/
def PortWord.ofTable (nbits w : Nat) : PortWord :=
  if nbits ≤ 8 then .rx (BitVec.ofNat 8 w) else .cmd (BitVec.ofNat 40 w)

/-- The instruction the decoder reads from a table word; `none` where it refuses. -/
def decodeTableWord (nbits w : Nat) : Option Instr :=
  match decode (PortWord.ofTable nbits w) with
  | .ok i => some i
  | .error _ => none

end Sys2Proof
end

