-- ==== Sys2Proof/Machine/Ports.lean ====
section
/-! DEFINITION. The ports (spec 30_encoding.md R100 to R104, R108): what the outputs show, what a transfer on an output
port drains, which offer comes next, and the back-pressure of a finite circuit (70_reset_and_hazards.md R361). -/

namespace Sys2Proof.Machine

/-- The bytes of an event record, first byte first (R101, R102). -/
def Event.record : Event → List Byte
  | .frame cmd args crcCalc crcRecv ok =>
    [0x01] ++ bytesOf16 cmd ++ bytesOf16 (BitVec.ofNat 16 args.length) ++ args ++ bytesOf16 crcCalc ++
      bytesOf16 crcRecv ++ [if ok then 0x01 else 0x00]
  | .bitmapChanged => [0x02]
  | .formatError => [0x03]

/-- The response on the `rsp` port (R95), `none` while `rsp_valid = 0`. -/
def rspOut (s : State) : Option Response := s.rspq.head?

/-- The byte on the `evt` port (R100), `none` while `evt_valid = 0`. -/
def evtOut (s : State) : Option Byte :=
  match s.evq with
  | [] => none
  | e :: _ => e.record[s.evtPos]?

/-- The byte on the `tx` port (R104), `none` while `tx_valid = 0`. -/
def txOut (s : State) : Option Byte := s.txq.head?

/-- The `irq` level (60_exceptions.md R320). -/
def irq (s : State) : Bool := s.cfg.irqen && evPend s

/-- The handshake and interrupt outputs of R108 that the block drives. -/
structure Signals where
  rxReady : Bool
  cmdReady : Bool
  rspValid : Bool
  evtValid : Bool
  txValid : Bool
  irq : Bool
  deriving DecidableEq, Repr

/-- The signals for a given level of `rst`: all 0 while `rst = 1` (R351). The model's queues are unbounded, so its input
ports are always ready otherwise (R361). -/
def signals (rst : Bool) (s : State) : Signals :=
  { rxReady := !rst
    cmdReady := !rst
    rspValid := !rst && (rspOut s).isSome
    evtValid := !rst && (evtOut s).isSome
    txValid := !rst && (txOut s).isSome
    irq := !rst && irq s }

/-- A transfer on `rsp`: the oldest response is taken; nothing moves while none is offered (log entry 8). -/
def takeResponse (s : State) : State := { s with rspq := s.rspq.tail }

/-- A transfer on `evt` (R100): one more byte of the head's record is taken; "An event is removed from `EVQ` when its
last byte has been taken". -/
def takeEventByte (s : State) : State :=
  match s.evq with
  | [] => s
  | e :: rest =>
    if s.evtPos + 1 < e.record.length then { s with evtPos := s.evtPos + 1 }
    else { s with evq := rest, evtPos := 0 }

/-- A transfer on `tx` (R104): the head byte is taken. -/
def takeTxByte (s : State) : State := { s with txq := s.txq.tail }

/-- The next offer of the outside and the state without it; `none` while nothing is offered (R72). -/
def nextOffer (s : State) : Option (Offer × State) :=
  match s.offers with
  | [] => none
  | o :: rest => some (o, { s with offers := rest })

/-- The state in which a table row's word is offered next. -/
def offerWord (s : State) (w : PortWord) : State := { s with offers := .input w :: s.offers }

/-- Bytes that the queued event records occupy in a circuit (R361; log entry 6). -/
def evqBytes (s : State) : Nat := (s.evq.map (fun e => e.record.length)).sum

/-- The most event bytes that a FEED in this state could append (R361; log entry 6). -/
def feedNeed (s : State) : Nat :=
  if s.stage = .foot2 ∧ 2 ≤ s.acc.length then (s.acc.length - 2 + 10) + 1 else 0

/-- The transmit bytes that a TXEND in this state could append (R361; log entry 6). -/
def txendNeed (s : State) : Nat := if s.txact then s.txs.length + 8 else 0

/-- Room for `need` more bytes in a queue of the given depth; an unbounded queue always has room. -/
def fits (depth : Option Nat) (used need : Nat) : Bool :=
  match depth with
  | none => true
  | some d => decide (used + need ≤ d)

/-- `rx_ready` of a circuit whose event queue has the given depth (R361): it stalls, it never drops. -/
def circuitRxReady (depth : Option Nat) (rst : Bool) (s : State) : Bool :=
  !rst && fits depth (evqBytes s) (feedNeed s)

/-- `cmd_ready` of a circuit whose transmit queue has the given depth (R361). -/
def circuitCmdReady (depth : Option Nat) (rst : Bool) (s : State) : Bool :=
  !rst && fits depth s.txq.length (txendNeed s)

end Sys2Proof.Machine
end

