-- ==== Sys2Proof/Machine/Step.lean ====
section
/-! DEFINITION. One step of the engine: one transfer, or one reset edge (spec 20_memory.md R68, R72, R73). -/

namespace Sys2Proof.Machine

/-- The engine takes the next offer: an accepted transaction runs as its instruction, a refused command word raises its
error (60_exceptions.md R313), a transfer on an output port drains that port, `rst` resets. With nothing offered the
engine holds its state (60_exceptions.md R327). -/
def step (s : State) : Host.Outcome State Fault Refusal :=
  match nextOffer s with
  | none => .next s
  | some (o, s) =>
    match o with
    | .input w =>
      match decode w with
      | .ok i => exec i s
      | .error e => .next (raise e s)
    | .rspReady => .next (takeResponse s)
    | .evtReady => .next (takeEventByte s)
    | .txReady => .next (takeTxByte s)
    | .rst => .next (resetEdge s)

/-- `s` with a table row's word offered next on its port, before everything else that is offered (log entry 2). -/
def State.withFetchWord (s : State) (nbits w : Nat) : State := offerWord s (PortWord.ofTable nbits w)

end Sys2Proof.Machine
end

