-- ==== Sys2Proof/Machine/Asm.lean ====
section
/-! DEFINITION. The assembly syntax and the pseudo-instructions (spec 30_encoding.md R106, R107;
42_command_encoder.md R208; log entry 15). -/

namespace Sys2Proof.Machine

/-- An argument of the pseudo-instruction SEND: the three kinds of R208. -/
inductive SendArg where
  | uint (v : Nat)
  | rawBytes (bs : List Nat)
  | smallInts (vs : List Nat)
  deriving DecidableEq, Repr

/-- One line of assembly (R106, R107), its operands not yet checked against their fields. -/
inductive AsmLine where
  | feed (b : Nat)
  | nop
  | prst
  | srst
  | rdreg (reg : Nat)
  | wrreg (reg value : Nat)
  | txbegin (cmd : Nat)
  | txuint (v : Nat)
  | txbyte (b : Nat)
  | txend
  | bmrd (col group : Nat)
  | ciph (b pos : Nat)
  | crcu (b crc : Nat)
  /-- `FEEDS b0 b1 ... bk`. -/
  | feeds (bs : List Nat)
  /-- `SEND cmd, a1, ..., am`. -/
  | send (cmd : Nat) (args : List SendArg)
  deriving DecidableEq, Repr

/-- `n` as a field of `w` bits: "An operand that does not fit its field is an assembly error, not a word" (R106). -/
def asmField (w n : Nat) : Option (BitVec w) := if n < 2 ^ w then some (BitVec.ofNat w n) else none

/-- `FEED b`. -/
def asmFeed (b : Nat) : Option Instr := (asmField 8 b).map .feed

/-- `TXBYTE b`: the operand is the whole of `A`, whose bits 31:8 the engine ignores (R204). -/
def asmTxbyte (a : Nat) : Option Instr :=
  (asmField 32 a).map fun a => .txbyte (a.extractLsb' 0 8) (a.extractLsb' 8 24)

/-- `TXUINT v`. -/
def asmTxuint (v : Nat) : Option Instr := (asmField 32 v).map .txuint

/-- The lines that carry one argument of SEND (R107, R208). A raw byte is "copied verbatim" and must be a byte; a small
integer is truncated by TXBYTE. DESIGN CHOICE (log entry 15): a small integer may have up to 32 bits, a raw byte only 8. -/
def asmArg : SendArg → Option (List Instr)
  | .uint v => (asmTxuint v).map fun i => [i]
  | .rawBytes bs => bs.mapM fun b => if b < 256 then asmTxbyte b else none
  | .smallInts vs => vs.mapM asmTxbyte

/-- The transactions of one line (R106, R107); `none` is an assembly error. -/
def AsmLine.assemble : AsmLine → Option (List Instr)
  | .feed b => (asmFeed b).map fun i => [i]
  | .nop => some [.nop]
  | .prst => some [.prst]
  | .srst => some [.srst]
  | .rdreg reg => (asmField 8 reg).map fun r => [.rdreg r]
  | .wrreg reg value => do
    let r ← asmField 8 reg
    let v ← asmField 16 value
    return [.wrreg r v]
  | .txbegin cmd => (asmField 16 cmd).map fun c => [.txbegin c]
  | .txuint v => (asmTxuint v).map fun i => [i]
  | .txbyte b => (asmTxbyte b).map fun i => [i]
  | .txend => some [.txend]
  | .bmrd col group => do
    let c ← asmField 8 col
    let g ← asmField 8 group
    return [.bmrd c g]
  | .ciph b pos => do
    let b ← asmField 8 b
    let p ← asmField 16 pos
    return [.ciph b p]
  | .crcu b crc => do
    let b ← asmField 8 b
    let c ← asmField 16 crc
    return [.crcu b c]
  | .feeds bs => bs.mapM asmFeed
  | .send cmd args => do
    let c ← asmField 16 cmd
    let body ← args.mapM asmArg
    return [.txbegin c] ++ body.flatten ++ [.txend]

/-- A lexical element of a line. -/
inductive AsmToken where
  | word (cs : List Char)
  | comma
  | lbracket
  | rbracket
  deriving DecidableEq, Repr

/-- Ends the word being read, if there is one. -/
def flushWord (cur : List Char) (rest : List AsmToken) : List AsmToken :=
  if cur = [] then rest else .word cur :: rest

/-- The tokens of a line; "`;` starts a comment" (R106). `cur` is the word being read. -/
def tokensOf (cur : List Char) : List Char → List AsmToken
  | [] => flushWord cur []
  | c :: cs =>
    if c = ';' then flushWord cur []
    else if c = ',' then flushWord cur (.comma :: tokensOf [] cs)
    else if c = '[' then flushWord cur (.lbracket :: tokensOf [] cs)
    else if c = ']' then flushWord cur (.rbracket :: tokensOf [] cs)
    else if c = ' ' ∨ c = '\t' ∨ c = '\r' then flushWord cur (tokensOf [] cs)
    else tokensOf (cur ++ [c]) cs

/-- The value of a digit in the given base; hexadecimal digits in either case (DESIGN CHOICE, log entry 15). -/
def digitOf (base : Nat) (c : Char) : Option Nat :=
  let n := c.toNat
  let v := if 48 ≤ n ∧ n ≤ 57 then n - 48
           else if 65 ≤ n ∧ n ≤ 70 then n - 55
           else if 97 ≤ n ∧ n ≤ 102 then n - 87
           else base
  if v < base then some v else none

/-- Digits read from the left. -/
def digitsOf (base acc : Nat) : List Char → Option Nat
  | [] => some acc
  | c :: cs => (digitOf base c).bind fun d => digitsOf base (acc * base + d) cs

/-- "numbers are decimal or `0x` hexadecimal" (R106). DESIGN CHOICE (log entry 15): leading zeros are allowed, and the `x` is
small. -/
def numberOf : List Char → Option Nat
  | [] => none
  | '0' :: 'x' :: c :: cs => digitsOf 16 0 (c :: cs)
  | c :: cs => digitsOf 10 0 (c :: cs)

/-- A byte of FEEDS: two characters are a hex pair, as in the programs of 95_test_vectors.md (00_scope.md R10). DESIGN CHOICE
(log entry 15): anything else is read as a number of R106. -/
def feedsByteOf : List Char → Option Nat
  | [a, b] => digitsOf 16 0 [a, b]
  | cs => numberOf cs

/-- The register names an assembler accepts for a register number (R106). -/
def registerNames : List (List Char × Nat) :=
  [ (['S','T','A','T','U','S'], 0x00), (['C','F','G'], 0x01), (['L','E','N'], 0x02), (['R','C','N','T'], 0x03),
    (['C','R','C','_','C','A','L','C'], 0x04), (['C','R','C','_','R','E','C','V'], 0x05),
    (['T','X','L','E','N'], 0x06) ]

/-- A register operand: a name, `KEY0` to `KEY15`, or a number (R106). DESIGN CHOICE (log entry 15): the index of a `KEY`
name may be written with leading zeros (`KEY00`, `KEY007`), as any decimal number may. -/
def registerOf (cs : List Char) : Option Nat :=
  match registerNames.lookup cs with
  | some n => some n
  | none =>
    match cs with
    | 'K' :: 'E' :: 'Y' :: c :: ds =>
      (digitsOf 10 0 (c :: ds)).bind fun i => if i < 16 then some (0x10 + i) else none
    | _ => numberOf cs

/-- The arguments of SEND after its command id; `pending` holds the elements of a bracketed list being read. -/
def sendArgsOf (pending : Option (List Nat)) : List AsmToken → Option (List SendArg)
  | [] => if pending = none then some [] else none
  | .comma :: .word w :: rest =>
    match pending with
    | none => do
      let v ← numberOf w
      let args ← sendArgsOf none rest
      return .uint v :: args
    | some _ => none
  | .comma :: .lbracket :: rest => if pending = none then sendArgsOf (some []) rest else none
  | .word w :: .comma :: rest =>
    pending.bind fun vs => (numberOf w).bind fun v => sendArgsOf (some (vs ++ [v])) rest
  | .word w :: .rbracket :: rest =>
    pending.bind fun vs => (numberOf w).bind fun v => (sendArgsOf none rest).map (.smallInts (vs ++ [v]) :: ·)
  | .rbracket :: rest => if pending = some [] then (sendArgsOf none rest).map (.smallInts [] :: ·) else none
  | _ => none

/-- The words of a line that has nothing but words. -/
def wordsOf : List AsmToken → Option (List (List Char))
  | [] => some []
  | .word w :: rest => (wordsOf rest).map (w :: ·)
  | _ => none

/-- A line from its tokens (the syntax column of R106, and R107). DESIGN CHOICE (log entry 15): `FEEDS` with no byte is a line
of no transaction, and `SEND` with no argument is a frame of its command id alone. -/
def lineOf : List AsmToken → Option AsmLine
  | [.word ['N','O','P']] => some .nop
  | [.word ['P','R','S','T']] => some .prst
  | [.word ['S','R','S','T']] => some .srst
  | [.word ['T','X','E','N','D']] => some .txend
  | [.word ['F','E','E','D'], .word b] => (numberOf b).map .feed
  | [.word ['R','D','R','E','G'], .word r] => (registerOf r).map .rdreg
  | [.word ['W','R','R','E','G'], .word r, .comma, .word v] => do
    return .wrreg (← registerOf r) (← numberOf v)
  | [.word ['T','X','B','E','G','I','N'], .word c] => (numberOf c).map .txbegin
  | [.word ['T','X','U','I','N','T'], .word v] => (numberOf v).map .txuint
  | [.word ['T','X','B','Y','T','E'], .word b] => (numberOf b).map .txbyte
  | [.word ['B','M','R','D'], .word c, .comma, .word g] => do
    return .bmrd (← numberOf c) (← numberOf g)
  | [.word ['C','I','P','H'], .word b, .comma, .word p] => do
    return .ciph (← numberOf b) (← numberOf p)
  | [.word ['C','R','C','U'], .word b, .comma, .word c] => do
    return .crcu (← numberOf b) (← numberOf c)
  | .word ['F','E','E','D','S'] :: rest => do
    let ws ← wordsOf rest
    return .feeds (← ws.mapM feedsByteOf)
  | .word ['S','E','N','D'] :: .word c :: rest => do
    return .send (← numberOf c) (← sendArgsOf none rest)
  | _ => none

/-- The transactions of one line of text; a line that holds only a comment has none, as in the programs of
95_test_vectors.md. DESIGN CHOICE (log entry 15): so has a blank line. -/
def assembleLine (cs : List Char) : Option (List Instr) :=
  match tokensOf [] cs with
  | [] => some []
  | ts => (lineOf ts).bind AsmLine.assemble

/-- Splits a text into its lines; `cur` is the line being read. -/
def linesOf (cur : List Char) : List Char → List (List Char)
  | [] => [cur]
  | c :: cs => if c = '\n' then cur :: linesOf [] cs else linesOf (cur ++ [c]) cs

/-- The transactions of an assembly text: "One transaction per line" (R106). -/
def assembleText (cs : List Char) : Option (List Instr) :=
  ((linesOf [] cs).mapM assembleLine).map List.flatten

end Sys2Proof.Machine
end

