-- ==== Sys2Proof/Safety.lean ====
section
/-! DEFINITION. The invariants of the engine in the terms the statements use (spec 10_state.md R24 to R28, R34;
30_encoding.md R100, R101, R104). -/

namespace Sys2Proof.Machine

/-- Stages after the payload's last byte. -/
def Stage.afterPayload : Stage → Bool
  | .cklo => true
  | .ckhi => true
  | .foot1 => true
  | .foot2 => true
  | .idle => false
  | .sync2 => false
  | .lenlo => false
  | .lenhi => false
  | .payload => false
  | .alt => false

/-- Stages before the payload's first byte, and ALT. -/
def Stage.beforePayload : Stage → Bool
  | .idle => true
  | .sync2 => true
  | .lenlo => true
  | .lenhi => true
  | .alt => true
  | .payload => false
  | .cklo => false
  | .ckhi => false
  | .foot1 => false
  | .foot2 => false

/-- The invariant of R27. -/
abbrev DecoderInv (s : State) : Prop :=
  s.acc.length = s.rcnt.toNat ∧
  (s.stage = .payload → s.rcnt.toNat < s.len.toNat) ∧
  (s.stage.afterPayload = true → s.rcnt = s.len) ∧
  (s.stage.beforePayload = true → s.rcnt = 0 ∧ s.acc = [])

/-- What R24, R26, R28 and R156 add: `LEN` is 0 outside a frame and only its low byte is known at LENHI, an accepted
length is within `MAX_PAYLOAD`, and `CRC_CALC` is the checksum of what `ACC` holds. -/
abbrev FrameInv (p : Params) (s : State) : Prop :=
  (s.stage = .idle ∨ s.stage = .sync2 ∨ s.stage = .lenlo ∨ s.stage = .alt → s.len = 0) ∧
  (s.stage = .lenhi → s.len.toNat < 256) ∧
  (s.stage = .payload ∨ s.stage.afterPayload = true →
    s.len.toNat ≤ p.maxPayload ∧ s.crcCalc = crcSeq 0 s.acc)

/-- The invariant of R34: nothing is staged while `TXACT = 0`; a staged payload holds its command id and fits. -/
abbrev StagingInv (s : State) : Prop :=
  (s.txact = false → s.txs = []) ∧ (s.txact = true → 2 ≤ s.txs.length ∧ s.txs.length ≤ txMax)

/-- An event as the rules build it: `ok` reports the comparison of the two checksums (R101), and the args fit (R101: "0 to
65533"). -/
abbrev Event.Sound : Event → Prop
  | .frame _ args crcCalc crcRecv ok => args.length ≤ 65533 ∧ ok = decide (crcCalc = crcRecv)
  | .bitmapChanged => True
  | .formatError => True

/-- The event port: every queued event is sound, and fewer bytes of the head's record have been taken than it has (R100). -/
abbrev EventInv (s : State) : Prop :=
  (∀ e ∈ s.evq, e.Sound) ∧
  (match s.evq with
   | [] => s.evtPos = 0
   | e :: _ => s.evtPos < e.record.length)

/-- `TXQ` is a tail of whole wire frames laid end to end (R104), each of a payload with a command id (R83). -/
def TxFrames (txq : List Byte) : Prop :=
  ∃ (Ps : List (List Byte)) (k : Nat),
    (∀ P ∈ Ps, 2 ≤ P.length ∧ P.length ≤ txMax) ∧ txq = ((Ps.map encodeFrame).flatten).drop k

/-- The engine's invariant. -/
abbrev EngineInv (p : Params) (s : State) : Prop :=
  DecoderInv s ∧ FrameInv p s ∧ StagingInv s ∧ EventInv s

/-- A safe outcome: the step answers a next state. -/
def Continues (r : Result) : Prop := ∃ s, r = .next s

end Sys2Proof.Machine
end

