-- ==== Sys2Proof/Certificates/Slice0/Obligations.lean ====
section
/-! DEFINITION. The statements for the provers, each from the rules of spec/ that its docstring names, and the few terms
they share. -/

namespace Sys2Proof.Claims

open Sys2Proof.Machine

/-- A response without error (R95). -/
def okRsp (v : Word) : Response := { err := false, data := v }

/-- An error response with the given code (R311). -/
def errRsp (code : Nat) : Response := { err := true, data := BitVec.ofNat 32 code }

/-- `s` after a response without error and nothing else. -/
def answered (v : Word) (s : State) : State := { s with rspq := s.rspq ++ [okRsp v] }

/-- `s` after a command refused with code 1, 2 or 3 (R312): the response, `CMDERR`, and nothing else. -/
def refusedWith (code : Nat) (s : State) : State :=
  { s with flags := { s.flags with cmderr := true }, rspq := s.rspq ++ [errRsp code] }

/-- `s` after an append that overflows (R205): the staged frame is gone, `TXOVF` is set, code 4 is returned and `CMDERR` is
not touched. -/
def stagingAborted (s : State) : State :=
  { s with
    txs := []
    txact := false
    flags := { s.flags with txovf := true }
    rspq := s.rspq ++ [errRsp 4] }

/-- `s` with the decoder's fields at their initial values (R163). -/
def atIdle (s : State) : State := { s with stage := .idle, len := 0, rcnt := 0, acc := [] }

/-- The command word with opcode byte `op` and operand field `a` (R89). -/
def wordOf (op : Byte) (a : Word) : PortWord := .cmd (op ++ a)

/-- The opcode map and its reserved-zero masks (R90, R91), numbers only. -/
def reservedColumn : List (Byte × Word) :=
  [ (0x00, 0xFFFFFFFF), (0x01, 0xFFFFFFFF), (0x02, 0xFFFFFFFF), (0x08, 0xFFFFFF00), (0x09, 0xFF000000),
    (0x10, 0xFFFF0000), (0x11, 0x00000000), (0x12, 0x00000000), (0x13, 0xFFFFFFFF), (0x20, 0xFFFF0000),
    (0x30, 0xFF000000), (0x31, 0xFF000000) ]

/-- The keystream table as R31 prints it. -/
def keyTable : List Byte :=
  [0x16, 0x6C, 0x14, 0xE6, 0x2E, 0x91, 0x0D, 0x40, 0x21, 0x35, 0xD5, 0x40, 0x13, 0x03, 0xE9, 0x80]

/-- A flag as a number of 32 bits. -/
def bit (b : Bool) : Word := if b then 1 else 0

/-- `STAGE`'s number (R23). -/
def stageNumber : Stage → Nat
  | .idle => 0
  | .sync2 => 1
  | .lenlo => 2
  | .lenhi => 3
  | .payload => 4
  | .cklo => 5
  | .ckhi => 6
  | .foot1 => 7
  | .foot2 => 8
  | .alt => 9

/-- `STATUS` as R282 writes it out. -/
def statusValue (s : State) : Word :=
  BitVec.ofNat 32 (stageNumber s.stage) ||| bit s.flags.fmterr <<< 8 ||| bit s.flags.crcerr <<< 9 |||
    bit s.flags.short <<< 10 ||| bit s.flags.ovf <<< 11 ||| bit s.flags.altseen <<< 12 ||| bit s.flags.cmderr <<< 13 |||
    bit s.flags.txovf <<< 14 ||| bit s.txact <<< 16 ||| bit (!s.evq.isEmpty) <<< 17

/-- The next offer is a transaction that decodes to `i`. -/
def NextIs (s : State) (i : Instr) : Prop := ∃ w rest, s.offers = .input w :: rest ∧ decode w = .ok i

/-- The next offer is one of the two full resets a running engine can take (R351). -/
def NextResets (s : State) : Prop := NextIs s .srst ∨ s.offers.head? = some .rst

/-- The four transmit-side commands. -/
def isStaging : Instr → Bool
  | .txbegin _ => true
  | .txuint _ => true
  | .txbyte _ _ => true
  | .txend => true
  | .feed _ => false
  | .nop => false
  | .prst => false
  | .srst => false
  | .rdreg _ => false
  | .wrreg _ _ => false
  | .bmrd _ _ => false
  | .ciph _ _ => false
  | .crcu _ _ => false

/-- The three commands that need a staged frame (TX_NOT_ACTIVE, R311). -/
def needsStagedFrame : Instr → Bool
  | .txuint _ => true
  | .txbyte _ _ => true
  | .txend => true
  | .feed _ => false
  | .nop => false
  | .prst => false
  | .srst => false
  | .rdreg _ => false
  | .wrreg _ _ => false
  | .txbegin _ => false
  | .bmrd _ _ => false
  | .ciph _ _ => false
  | .crcu _ _ => false

/-- One CRC round on 16 bits (R124). -/
def roundBits (c : U16) : U16 := (c <<< 1) ^^^ (if c.getLsbD 15 then 0x1021 else 0)

/-- The command id of an accumulator (R162): its first two bytes, little-endian. -/
def commandOf (acc : List Byte) : U16 := (acc.getD 0 0).setWidth 16 ||| ((acc.getD 1 0).setWidth 16 <<< 8)

/-- Some complete triplet of `T` names column `c` and row group `g` (R86). -/
def NamesGroup (T : List Byte) (c g : Nat) : Prop :=
  ∃ t, 3 * t + 2 < T.length ∧ (T.getD (3 * t + 1) 0).toNat = c ∧ (T.getD (3 * t + 2) 0).toNat = g

end Sys2Proof.Claims

open Sys2Proof Sys2Proof.Machine Sys2Proof.Claims

/-! ### Encoding -/

/-- R89 to R91: decoding what the encoder writes gives the instruction back, with every operand at every value. -/
def Obligations.DecodeOfEncode : Prop := ∀ i : Instr, decode (encode i) = .ok i

/-- R89 to R93: an accepted port word is the encoding of the one instruction it decodes to, so no two words that differ decode
to the same instruction. That this holds for TXBYTE too is the model's choice (log entry 10): its syntax carries the discarded
bits `A[31:8]`, on which its effect does not depend (R91, R204; TxbyteAppends). -/
def Obligations.EncodeOfDecode : Prop := ∀ (w : PortWord) (i : Instr), decode w = .ok i → encode i = w

/-- The word column of R106, as numbers. -/
def Obligations.EncodedWordNumbers : Prop :=
  (∀ b, encode (.feed b) = .rx b) ∧
  encode .nop = .cmd 0 ∧
  encode .prst = .cmd (BitVec.ofNat 40 (0x01 * 2 ^ 32)) ∧
  encode .srst = .cmd (BitVec.ofNat 40 (0x02 * 2 ^ 32)) ∧
  (∀ r, encode (.rdreg r) = .cmd (BitVec.ofNat 40 (0x08 * 2 ^ 32 + r.toNat))) ∧
  (∀ r v, encode (.wrreg r v) = .cmd (BitVec.ofNat 40 (0x09 * 2 ^ 32 + v.toNat * 2 ^ 8 + r.toNat))) ∧
  (∀ c, encode (.txbegin c) = .cmd (BitVec.ofNat 40 (0x10 * 2 ^ 32 + c.toNat))) ∧
  (∀ v, encode (.txuint v) = .cmd (BitVec.ofNat 40 (0x11 * 2 ^ 32 + v.toNat))) ∧
  (∀ b x, encode (.txbyte b x) = .cmd (BitVec.ofNat 40 (0x12 * 2 ^ 32 + x.toNat * 2 ^ 8 + b.toNat))) ∧
  encode .txend = .cmd (BitVec.ofNat 40 (0x13 * 2 ^ 32)) ∧
  (∀ c g, encode (.bmrd c g) = .cmd (BitVec.ofNat 40 (0x20 * 2 ^ 32 + g.toNat * 2 ^ 8 + c.toNat))) ∧
  (∀ b q, encode (.ciph b q) = .cmd (BitVec.ofNat 40 (0x30 * 2 ^ 32 + q.toNat * 2 ^ 8 + b.toNat))) ∧
  (∀ b c, encode (.crcu b c) = .cmd (BitVec.ofNat 40 (0x31 * 2 ^ 32 + c.toNat * 2 ^ 8 + b.toNat)))

/-- Words printed in 95_test_vectors.md decode to the instructions printed beside them. -/
def Obligations.PrintedWordsDecode : Prop :=
  decode (.rx 0xAB) = .ok (.feed 0xAB) ∧
  decode (.cmd 0x0000000000) = .ok .nop ∧
  decode (.cmd 0x0100000000) = .ok .prst ∧
  decode (.cmd 0x0200000000) = .ok .srst ∧
  decode (.cmd 0x0800000006) = .ok (.rdreg 0x06) ∧
  decode (.cmd 0x0900020000) = .ok (.wrreg 0x00 0x0200) ∧
  decode (.cmd 0x1000000801) = .ok (.txbegin 0x0801) ∧
  decode (.cmd 0x1100000013) = .ok (.txuint 19) ∧
  decode (.cmd 0x1200000113) = .ok (.txbyte 0x13 0x000001) ∧
  decode (.cmd 0x1300000000) = .ok .txend ∧
  decode (.cmd 0x200000077F) = .ok (.bmrd 127 7) ∧
  decode (.cmd 0x3000FFFF00) = .ok (.ciph 0x00 0xFFFF) ∧
  decode (.cmd 0x3100FFFFFF) = .ok (.crcu 0xFF 0xFFFF) ∧
  decode (.cmd 0x3001000000) = .error .badOperand ∧
  decode (.cmd 0x04FFFFFFFF) = .error .illegalOpcode

/-- R92: an unassigned opcode is refused with ILLEGAL_OPCODE (code 1) and has no other effect than R312's. -/
def Obligations.UnassignedOpcodeRefused : Prop :=
  ∀ (s : State) (rest : List Offer) (op : Byte) (a : Word),
    (0x03 ≤ op.toNat ∧ op.toNat ≤ 0x07) ∨ (0x0A ≤ op.toNat ∧ op.toNat ≤ 0x0F) ∨
      (0x14 ≤ op.toNat ∧ op.toNat ≤ 0x1F) ∨ (0x21 ≤ op.toNat ∧ op.toNat ≤ 0x2F) ∨ 0x32 ≤ op.toNat →
    s.offers = .input (wordOf op a) :: rest →
    step s = .next (refusedWith 1 { s with offers := rest })

/-- R93: a command word with a reserved-zero bit set is refused with BAD_OPERAND (code 2) and has no other effect than
R312's. -/
def Obligations.ReservedBitsRefused : Prop :=
  ∀ (s : State) (rest : List Offer) (op : Byte) (mask a : Word),
    (op, mask) ∈ reservedColumn → a &&& mask ≠ 0 → s.offers = .input (wordOf op a) :: rest →
    step s = .next (refusedWith 2 { s with offers := rest })

/-! ### The step -/

/-- R313, R72: when the next offer decodes to an instruction, the step is that instruction at the state without the offer.
-/
def Obligations.StepRunsDecodedInstruction : Prop :=
  ∀ (s : State) (rest : List Offer) (w : PortWord) (i : Instr),
    s.offers = .input w :: rest → decode w = .ok i → step s = exec i { s with offers := rest }

/-- R72, R73, R327: with nothing offered the engine holds its state; otherwise a step uses up exactly the first offer, so
each agent's transfers keep their order. -/
def Obligations.StepUsesUpOneOffer : Prop :=
  (∀ s : State, s.offers = [] → step s = .next s) ∧
  (∀ s t : State, step s = .next t → t.offers = s.offers.tail)

/-- R316: "After any error the engine accepts the next transaction normally"; no instruction and no step stops it. -/
def Obligations.EngineNeverStops : Prop :=
  (∀ (i : Instr) (s : State), ∃ t, exec i s = .next t ∧ ∃ u, step t = .next u) ∧
  (∀ s : State, ∃ t, step s = .next t)

/-! ### Session control, register access, cipher and checksum commands -/

/-- R280. -/
def Obligations.NopAnswersZero : Prop :=
  (∀ s, exec .nop s = .next (answered 0 s)) ∧
  (∀ a, decode (wordOf 0x00 a) = if a = 0 then .ok .nop else .error .badOperand)

/-- R281. -/
def Obligations.PrstResetsDecoderOnly : Prop :=
  (∀ s, exec .prst s = .next (answered 0 (atIdle s))) ∧
  (∀ s, s.stage = .idle → s.len = 0 → s.rcnt = 0 → s.acc = [] → exec .prst s = .next (answered 0 s)) ∧
  (∀ a, decode (wordOf 0x01 a) = if a = 0 then .ok .prst else .error .badOperand)

/-- R283: every element of R20 is at the value R46 gives, and the response comes after. -/
def Obligations.SrstResetsEveryElement : Prop :=
  (∀ s, ∃ t, exec .srst s = .next t ∧
    t.stage = .idle ∧ t.len = 0 ∧ t.rcnt = 0 ∧ t.acc = [] ∧ t.crcCalc = 0 ∧ t.crcRecv = 0 ∧
    t.cfg = { strict := false, irqen := false } ∧
    t.flags = { fmterr := false, crcerr := false, short := false, ovf := false, altseen := false, cmderr := false,
                txovf := false } ∧
    t.txact = false ∧ t.txs = [] ∧ (∀ r c, pixel t.bm r c = false) ∧ t.evq = [] ∧ t.txq = [] ∧
    t.rspq.getLast? = some (okRsp 0)) ∧
  (∀ a, decode (wordOf 0x02 a) = if a = 0 then .ok .srst else .error .badOperand)

/-- R282, with the register map of R37: each assigned register is returned and nothing is written, every other number is
refused. `TXLEN` is the number of staged bytes where it fits its 16 bits (it always does: R34). -/
def Obligations.RdregReturnsRegister : Prop :=
  (∀ s, exec (.rdreg 0x00) s = .next (answered (statusValue s) s)) ∧
  (∀ s, exec (.rdreg 0x01) s = .next (answered (bit s.cfg.strict ||| bit s.cfg.irqen <<< 1) s)) ∧
  (∀ s, exec (.rdreg 0x02) s = .next (answered (s.len.setWidth 32) s)) ∧
  (∀ s, exec (.rdreg 0x03) s = .next (answered (s.rcnt.setWidth 32) s)) ∧
  (∀ s, exec (.rdreg 0x04) s = .next (answered (s.crcCalc.setWidth 32) s)) ∧
  (∀ s, exec (.rdreg 0x05) s = .next (answered (s.crcRecv.setWidth 32) s)) ∧
  (∀ s, s.txs.length ≤ 65535 → exec (.rdreg 0x06) s = .next (answered (BitVec.ofNat 32 s.txs.length) s)) ∧
  (∀ s i, i < 16 → exec (.rdreg (BitVec.ofNat 8 (0x10 + i))) s = .next (answered ((keyTable.getD i 0).setWidth 32) s)) ∧
  (∀ s reg, (0x07 ≤ reg.toNat ∧ reg.toNat ≤ 0x0F) ∨ 0x20 ≤ reg.toNat → exec (.rdreg reg) s = .next (refusedWith 2 s)) ∧
  (∀ a, decode (wordOf 0x08 a) =
    if a &&& 0xFFFFFF00 = 0 then .ok (.rdreg (a.extractLsb' 0 8)) else .error .badOperand)

/-- R284: STATUS is write-1-to-clear in bits 8 to 14, CFG takes bits 0 and 1, every other number is refused. -/
def Obligations.WrregWritesStatusOrCfg : Prop :=
  (∀ s value, exec (.wrreg 0x00 value) s = .next (answered 0
    { s with
      flags :=
        { fmterr := if value.getLsbD 8 then false else s.flags.fmterr
          crcerr := if value.getLsbD 9 then false else s.flags.crcerr
          short := if value.getLsbD 10 then false else s.flags.short
          ovf := if value.getLsbD 11 then false else s.flags.ovf
          altseen := if value.getLsbD 12 then false else s.flags.altseen
          cmderr := if value.getLsbD 13 then false else s.flags.cmderr
          txovf := if value.getLsbD 14 then false else s.flags.txovf } })) ∧
  (∀ s value, exec (.wrreg 0x01 value) s =
    .next (answered 0 { s with cfg := { strict := value.getLsbD 0, irqen := value.getLsbD 1 } })) ∧
  (∀ s reg value, 0x02 ≤ reg.toNat → exec (.wrreg reg value) s = .next (refusedWith 2 s)) ∧
  (∀ a, decode (wordOf 0x09 a) =
    if a &&& 0xFF000000 = 0 then .ok (.wrreg (a.extractLsb' 0 8) (a.extractLsb' 8 16)) else .error .badOperand)

/-- R125. -/
def Obligations.CiphAnswersCipherByte : Prop :=
  (∀ s b pos, exec (.ciph b pos) s =
    .next (answered ((b ^^^ keyTable.getD (pos.toNat % 16) 0).setWidth 32) s)) ∧
  (∀ a, decode (wordOf 0x30 a) =
    if a &&& 0xFF000000 = 0 then .ok (.ciph (a.extractLsb' 0 8) (a.extractLsb' 8 16)) else .error .badOperand)

/-- R126, with the corner values and the example that the rule gives. -/
def Obligations.CrcuAnswersCrcUpdate : Prop :=
  (∀ s b crc, exec (.crcu b crc) s = .next (answered ((crcUpdate b crc).setWidth 32) s)) ∧
  crcUpdate 0x00 0x0000 = 0x0000 ∧ crcUpdate 0x01 0x0000 = 0x1021 ∧ crcUpdate 0x00 0xFFFF = 0xE1F0 ∧
  crcUpdate 0x13 0x1234 = 0x2421 ∧
  (∀ a, decode (wordOf 0x31 a) =
    if a &&& 0xFF000000 = 0 then .ok (.crcu (a.extractLsb' 0 8) (a.extractLsb' 8 16)) else .error .badOperand)

/-- R120 and R31: the cipher is an exclusive or with the printed key table at `pos mod 16`. That it undoes itself and
repeats every 16 positions is the spec's own inference (R121, marked derived). -/
def Obligations.CipherInvolution : Prop :=
  (∀ b pos, cipherByte b pos = b ^^^ keyTable.getD (pos % 16) 0) ∧
  (∀ b pos, cipherByte (cipherByte b pos) pos = b) ∧
  (∀ b pos, cipherByte b pos = cipherByte b (pos + 16))

/-- R122 and R123: the checksum is the left fold of `crc_update`. That `crc_update` is eight 16-bit rounds with polynomial
0x1021 on the byte in the high half, and the check value 0x31C3 over "123456789", are the spec's own inference (R124, marked
derived). -/
def Obligations.CrcIsBitSerial : Prop :=
  (∀ seed, crcSeq seed [] = seed) ∧
  (∀ seed b rest, crcSeq seed (b :: rest) = crcSeq (crcUpdate b seed) rest) ∧
  (∀ (b : Byte) (crc : U16),
    crcUpdate b crc = Nat.repeat roundBits 8 (crc ^^^ (b.setWidth 16 <<< 8))) ∧
  crcSeq 0 [0x31, 0x32, 0x33, 0x34, 0x35, 0x36, 0x37, 0x38, 0x39] = 0x31C3

/-! ### Command encoder -/

/-- R202: TXBEGIN starts a new frame, whether or not one is staged. -/
def Obligations.TxbeginStagesCommandId : Prop :=
  (∀ s (cmd : U16), exec (.txbegin cmd) s =
    .next (answered 0
      { s with txs := [BitVec.ofNat 8 cmd.toNat, BitVec.ofNat 8 (cmd.toNat / 256)], txact := true })) ∧
  (∀ a, decode (wordOf 0x10 a) =
    if a &&& 0xFFFF0000 = 0 then .ok (.txbegin (a.extractLsb' 0 16)) else .error .badOperand)

/-- R200: 1, 2 or 4 little-endian bytes, by value. -/
def Obligations.SerUintBytes : Prop :=
  ∀ v : Word, serUint v =
    if v.toNat < 0x100 then [BitVec.ofNat 8 v.toNat]
    else if v.toNat < 0x10000 then [BitVec.ofNat 8 v.toNat, BitVec.ofNat 8 (v.toNat / 0x100)]
    else [BitVec.ofNat 8 v.toNat, BitVec.ofNat 8 (v.toNat / 0x100), BitVec.ofNat 8 (v.toNat / 0x10000),
          BitVec.ofNat 8 (v.toNat / 0x1000000)]

/-- R203 and R205: TXUINT appends the serialised integer, aborts the frame where it does not fit, and is refused with
TX_NOT_ACTIVE where no frame is staged. -/
def Obligations.TxuintAppends : Prop :=
  (∀ s v, s.txact = false → exec (.txuint v) s = .next (refusedWith 3 s)) ∧
  (∀ s v, s.txact = true → s.txs.length + (serUint v).length ≤ 65535 →
    exec (.txuint v) s = .next (answered 0 { s with txs := s.txs ++ serUint v })) ∧
  (∀ s v, s.txact = true → 65535 < s.txs.length + (serUint v).length →
    exec (.txuint v) s = .next (stagingAborted s)) ∧
  (∀ a, decode (wordOf 0x11 a) = .ok (.txuint a))

/-- R204 and R205: TXBYTE appends `A[7:0]`; `A[31:8]` has no influence. -/
def Obligations.TxbyteAppends : Prop :=
  (∀ s b x, s.txact = false → exec (.txbyte b x) s = .next (refusedWith 3 s)) ∧
  (∀ s b x, s.txact = true → s.txs.length < 65535 →
    exec (.txbyte b x) s = .next (answered 0 { s with txs := s.txs ++ [b] })) ∧
  (∀ s b x, s.txact = true → 65535 ≤ s.txs.length → exec (.txbyte b x) s = .next (stagingAborted s)) ∧
  (∀ a, decode (wordOf 0x12 a) = .ok (.txbyte (a.extractLsb' 0 8) (a.extractLsb' 8 24)))

/-- R206: TXEND queues the whole frame of the staged payload and answers its length `N + 8`. -/
def Obligations.TxendQueuesFrame : Prop :=
  (∀ s, s.txact = false → exec .txend s = .next (refusedWith 3 s)) ∧
  (∀ s, s.txact = true → exec .txend s =
    .next (answered (BitVec.ofNat 32 (s.txs.length + 8))
      { s with txq := s.txq ++ encodeFrame s.txs, txs := [], txact := false })) ∧
  (∀ a, decode (wordOf 0x13 a) = if a = 0 then .ok .txend else .error .badOperand)

/-- R82, R84, R127 and R201: every byte of a wire frame, by its offset; the table is the spec's own inference (R81, marked
derived). -/
def Obligations.WireFrameLayout : Prop :=
  ∀ P : List Byte, P.length ≤ 65535 →
    let N := P.length
    let C := crcSeq 0 P
    (encodeFrame P).length = N + 8 ∧
    (encodeFrame P).getD 0 0 = 0xAB ∧
    (encodeFrame P).getD 1 0 = 0xCD ∧
    (encodeFrame P).getD 2 0 = BitVec.ofNat 8 N ∧
    (encodeFrame P).getD 3 0 = BitVec.ofNat 8 (N / 256) ∧
    (∀ i, i < N → (encodeFrame P).getD (4 + i) 0 = P.getD i 0 ^^^ keyTable.getD (i % 16) 0) ∧
    (encodeFrame P).getD (4 + N) 0 = BitVec.ofNat 8 C.toNat ^^^ keyTable.getD (N % 16) 0 ∧
    (encodeFrame P).getD (5 + N) 0 = BitVec.ofNat 8 (C.toNat / 256) ^^^ keyTable.getD ((N + 1) % 16) 0 ∧
    (encodeFrame P).getD (6 + N) 0 = 0xDC ∧
    (encodeFrame P).getD (7 + N) 0 = 0xBA

/-! ### Frame decoder: FEED, stage by stage; where a parameter decides, for every choice of the parameters -/

/-- R150, for every legal choice of the parameters; FEED is `feedByte` with the machine's own, and these are legal. -/
def Obligations.FeedInIdle : Prop :=
  (∀ s, s.stage = .idle → exec (.feed 0xAB) s = .next { s with stage := .sync2 }) ∧
  (∀ s b, exec (.feed b) s = .next (feedByte Config.params b s)) ∧
  Config.params.Legal ∧
  (∀ (p : Params) s b, p.Legal → s.stage = .idle → p.altSyncByte = some b →
    feedByte p b s = { s with stage := .alt, flags := { s.flags with altseen := true } }) ∧
  (∀ (p : Params) s b, s.stage = .idle → b ≠ 0xAB → p.altSyncByte ≠ some b → feedByte p b s = s)

/-- R151. -/
def Obligations.FeedInSync2 : Prop :=
  (∀ s, s.stage = .sync2 → exec (.feed 0xCD) s = .next { s with stage := .lenlo }) ∧
  (∀ s b, s.stage = .sync2 → b ≠ 0xCD → exec (.feed b) s = .next (atIdle s))

/-- R152: ALT absorbs every byte, and only PRST, SRST and `rst` leave it. -/
def Obligations.AltAbsorbsUntilReset : Prop :=
  (∀ s b, s.stage = .alt → exec (.feed b) s = .next s) ∧
  (∀ s t, s.stage = .alt → step s = .next t → t.stage ≠ .alt → NextIs s .prst ∨ NextResets s) ∧
  (∀ s t, NextIs s .prst ∨ NextResets s → step s = .next t → t.stage = .idle)

/-- R153. -/
def Obligations.FeedInLenlo : Prop :=
  ∀ s b, s.stage = .lenlo → exec (.feed b) s = .next { s with len := b.setWidth 16, stage := .lenhi }

/-- R154 to R156, with `LEN' = LEN | (b << 8)`, for every choice of the parameters; FEED is `feedByte` with the machine's
own. -/
def Obligations.FeedInLenhi : Prop :=
  (∀ s b, exec (.feed b) s = .next (feedByte Config.params b s)) ∧
  ∀ (p : Params) s (b : Byte), s.stage = .lenhi →
    let len' : U16 := s.len ||| (b.setWidth 16 <<< 8)
    (p.maxPayload < len'.toNat →
      feedByte p b s = atIdle { s with crcCalc := 0, flags := { s.flags with ovf := true } }) ∧
    (len' = 0 → feedByte p b s = { s with len := 0, acc := [], rcnt := 0, crcCalc := 0, stage := .cklo }) ∧
    (len' ≠ 0 → len'.toNat ≤ p.maxPayload →
      feedByte p b s = { s with len := len', acc := [], rcnt := 0, crcCalc := 0, stage := .payload })

/-- R157: deciphered at position `RCNT` before the increment, folded as plaintext. -/
def Obligations.FeedInPayload : Prop :=
  ∀ s b, s.stage = .payload →
    let d := b ^^^ keyTable.getD (s.rcnt.toNat % 16) 0
    exec (.feed b) s = .next
      { s with
        acc := s.acc ++ [d]
        crcCalc := crcUpdate d s.crcCalc
        rcnt := s.rcnt + 1
        stage := if s.rcnt + 1 = s.len then .cklo else .payload }

/-- R158 and R159: the checksum bytes are deciphered at positions `LEN` and `LEN + 1` (modulo 16, also for `LEN = 65535`).
-/
def Obligations.FeedInChecksumStages : Prop :=
  (∀ s b, s.stage = .cklo → exec (.feed b) s =
    .next { s with crcRecv := (b ^^^ keyTable.getD (s.len.toNat % 16) 0).setWidth 16, stage := .ckhi }) ∧
  (∀ s b, s.stage = .ckhi → exec (.feed b) s =
    .next
      { s with
        crcRecv := s.crcRecv ||| ((b ^^^ keyTable.getD ((s.len.toNat + 1) % 16) 0).setWidth 16 <<< 8)
        stage := .foot1 })

/-- R160. -/
def Obligations.FeedInFoot1 : Prop :=
  (∀ s, s.stage = .foot1 → exec (.feed 0xDC) s = .next { s with stage := .foot2 }) ∧
  (∀ s b, s.stage = .foot1 → b ≠ 0xDC → exec (.feed b) s = .next (atIdle s))

/-- R161, the frames that are dropped: a wrong footer byte, a short frame, a mismatch in strict mode. -/
def Obligations.FeedInFoot2Drops : Prop :=
  (∀ s b, s.stage = .foot2 → b ≠ 0xBA → exec (.feed b) s = .next (atIdle s)) ∧
  (∀ s, s.stage = .foot2 → s.acc.length < 2 → exec (.feed 0xBA) s =
    .next (atIdle
      { s with
        flags := { s.flags with crcerr := s.flags.crcerr || decide (s.crcCalc ≠ s.crcRecv), short := true } })) ∧
  (∀ s, s.stage = .foot2 → 2 ≤ s.acc.length → s.cfg.strict = true → s.crcCalc ≠ s.crcRecv →
    exec (.feed 0xBA) s = .next (atIdle { s with flags := { s.flags with crcerr := true } }))

/-- R162 and R285, with R161's conditions: a frame that is not dropped emits FRAME, then the screen command runs the
screen decoder, and any other command does nothing more; the mismatch is reported but not enforced while `STRICT = 0`. -/
def Obligations.FeedInFoot2Completes : Prop :=
  ∀ s, s.stage = .foot2 → 2 ≤ s.acc.length → s.cfg.strict = false ∨ s.crcCalc = s.crcRecv →
    let u : State :=
      { s with
        flags := { s.flags with crcerr := s.flags.crcerr || decide (s.crcCalc ≠ s.crcRecv) }
        evq := s.evq ++
          [.frame (commandOf s.acc) (s.acc.drop 2) s.crcCalc s.crcRecv (decide (s.crcCalc = s.crcRecv))] }
    exec (.feed 0xBA) s =
      .next (atIdle (if commandOf s.acc = Config.params.screenCmdId then screenDispatch (s.acc.drop 2) u else u))

/-- R150 to R162 with R201: the decoder takes back what the encoder builds, for every payload of 2 to `MAX_PAYLOAD` bytes,
and emits exactly one FRAME, followed for the screen command by the screen decoder's event. The property is the spec's own
inference (R167, marked derived). -/
def Obligations.FrameRoundTrip : Prop :=
  ∀ (p : Params) (P : List Byte) (s : State),
    p.Legal → 2 ≤ P.length → P.length ≤ p.maxPayload → s.stage = .idle →
    let c := crcSeq 0 P
    let u : State :=
      { s with
        len := 0, rcnt := 0, acc := [], crcCalc := c, crcRecv := c
        evq := s.evq ++ [.frame (commandOf P) (P.drop 2) c c true] }
    feedBytes p (encodeFrame P) s =
      if commandOf P = p.screenCmdId then screenDispatch (P.drop 2) u else u

/-- The sufficient condition of the spec's own inference R166 (marked derived), from R150 to R162: bytes with no `0xAB`
and no `ALT_SYNC_BYTE` fed in IDLE change nothing, and a well-formed frame behind them is received. -/
def Obligations.GarbageWithoutSyncIsDropped : Prop :=
  ∀ (p : Params) (G P : List Byte) (s : State),
    p.Legal → s.stage = .idle → (∀ b ∈ G, b ≠ 0xAB ∧ p.altSyncByte ≠ some b) → 2 ≤ P.length →
    P.length ≤ p.maxPayload →
    feedBytes p G s = s ∧
    ∃ t, feedBytes p (G ++ encodeFrame P) s = t ∧ t.stage = .idle ∧
      ∃ more, t.evq = s.evq ++ .frame (commandOf P) (P.drop 2) (crcSeq 0 P) (crcSeq 0 P) true :: more ∧
        (commandOf P ≠ p.screenCmdId → more = []) ∧
        (commandOf P = p.screenCmdId → more = [.bitmapChanged] ∨ more = [.formatError])

/-- R150 to R161, with the bound of the spec's own inference R165 (marked derived): from every stage other than IDLE and
ALT the decoder is back in IDLE after at most 65542 further bytes, whatever they are. -/
def Obligations.ResyncWithin65542Bytes : Prop :=
  ∀ (p : Params) (s : State) (bs : List Byte),
    DecoderInv s → s.stage ≠ .idle → s.stage ≠ .alt → 65542 ≤ bs.length →
    ∃ k, k ≤ 65542 ∧ (feedBytes p (bs.take k) s).stage = .idle

/-! ### Screen decoder -/

/-- R246 (with R245 and the exact row base of R244): one triplet sets exactly the eight pixels of its column and group,
and none if it is out of range. -/
def Obligations.TripletWritesItsGroup : Prop :=
  ∀ (bm : Bitmap) (m col g : Byte) (r c : Nat), r < 64 → c < 128 →
    pixel (applyTriplet bm m col g) r c =
      if c = col.toNat ∧ r / 8 = g.toNat then m.getLsbD (r % 8) else pixel bm r c

/-- R244, in the form of the spec's own inference R248 (marked derived): a pixel whose column and group no triplet names
keeps its value in an incremental update, and the last triplet that names it decides it. -/
def Obligations.TripletsLastWriterWins : Prop :=
  (∀ (diff : Byte) (T : List Byte) (bm : Bitmap) (r c : Nat), diff ≠ 0 → r < 64 → c < 128 →
    ¬ NamesGroup T c (r / 8) → pixel (screenApply diff T bm) r c = pixel bm r c) ∧
  (∀ (diff m col g : Byte) (T T' : List Byte) (bm : Bitmap) (r c : Nat), r < 64 → c < 128 → T.length % 3 = 0 →
    col.toNat = c → g.toNat = r / 8 → ¬ NamesGroup T' c (r / 8) →
    pixel (screenApply diff (T ++ [m, col, g] ++ T') bm) r c = m.getLsbD (r % 8))

/-- R243, R244: a full update forgets the old bitmap; any nonzero flag is the same incremental update; with no triplets a
full update clears every pixel and an incremental one changes nothing. -/
def Obligations.FullUpdateForgetsBitmap : Prop :=
  (∀ (T : List Byte) (bm bm' : Bitmap), screenApply 0 T bm = screenApply 0 T bm') ∧
  (∀ (T : List Byte) (bm : Bitmap) (r c : Nat), r < 64 → c < 128 → ¬ NamesGroup T c (r / 8) →
    pixel (screenApply 0 T bm) r c = false) ∧
  (∀ (d d' : Byte) (T : List Byte) (bm : Bitmap), d ≠ 0 → d' ≠ 0 → screenApply d T bm = screenApply d' T bm) ∧
  (∀ (d : Byte) (bm : Bitmap), d ≠ 0 → screenApply d [] bm = bm)

/-- R240, R242, R251: a screen payload of length `3 + 3k` updates the bitmap and emits BITMAP_CHANGED; any other length sets
FMTERR, emits FORMAT_ERROR and leaves the bitmap alone; the offset bytes have no influence. -/
def Obligations.ScreenDispatchChecksFormat : Prop :=
  (∀ (s : State) (o0 o1 diff : Byte) (T : List Byte), T.length % 3 = 0 →
    screenDispatch (o0 :: o1 :: diff :: T) s =
      { s with bm := screenApply diff T s.bm, evq := s.evq ++ [.bitmapChanged] }) ∧
  (∀ (s : State) (args : List Byte), args.length < 3 ∨ args.length % 3 ≠ 0 →
    screenDispatch args s =
      { s with flags := { s.flags with fmterr := true }, evq := s.evq ++ [.formatError] }) ∧
  (∀ (s : State) (o0 o1 o0' o1' : Byte) (rest : List Byte),
    screenDispatch (o0 :: o1 :: rest) s = screenDispatch (o0' :: o1' :: rest) s)

/-- R250: BMRD answers the column byte whose bit `i` is `BM[8·group + i][col]`, or BAD_OPERAND outside the bitmap, and
writes nothing else. -/
def Obligations.BmrdAnswersColumnByte : Prop :=
  (∀ s (col group : Byte), col.toNat < 128 → group.toNat < 8 →
    ∃ v : Byte, exec (.bmrd col group) s = .next (answered (v.setWidth 32) s) ∧
      ∀ i, i < 8 → v.getLsbD i = pixel s.bm (8 * group.toNat + i) col.toNat) ∧
  (∀ s (col group : Byte), 128 ≤ col.toNat ∨ 8 ≤ group.toNat →
    exec (.bmrd col group) s = .next (refusedWith 2 s)) ∧
  (∀ a, decode (wordOf 0x20 a) =
    if a &&& 0xFFFF0000 = 0 then .ok (.bmrd (a.extractLsb' 0 8) (a.extractLsb' 8 8)) else .error .badOperand)

/-- R250, first corner case: reading where an in-range triplet was the last to write answers the triplet's bitmask. -/
def Obligations.BmrdReturnsTripletMask : Prop :=
  ∀ (s t : State) (m col g : Byte) (T T' : List Byte) (diff : Byte) (bm : Bitmap),
    col.toNat < 128 → g.toNat < 8 → T.length % 3 = 0 → ¬ NamesGroup T' col.toNat g.toNat →
    s.bm = screenApply diff (T ++ [m, col, g] ++ T') bm → t = answered (m.setWidth 32) s →
    exec (.bmrd col g) s = .next t

/-! ### Ports, queues, interrupt -/

/-- R101 and R102: the bytes of each event record. -/
def Obligations.EventRecordLayout : Prop :=
  (∀ (cmd crcCalc crcRecv : U16) (args : List Byte) (ok : Bool), args.length ≤ 65533 →
    let n := args.length
    let r := Event.record (.frame cmd args crcCalc crcRecv ok)
    r.length = n + 10 ∧
    r.getD 0 0 = 0x01 ∧
    r.getD 1 0 = BitVec.ofNat 8 cmd.toNat ∧
    r.getD 2 0 = BitVec.ofNat 8 (cmd.toNat / 256) ∧
    r.getD 3 0 = BitVec.ofNat 8 n ∧
    r.getD 4 0 = BitVec.ofNat 8 (n / 256) ∧
    (∀ i, i < n → r.getD (5 + i) 0 = args.getD i 0) ∧
    r.getD (5 + n) 0 = BitVec.ofNat 8 crcCalc.toNat ∧
    r.getD (6 + n) 0 = BitVec.ofNat 8 (crcCalc.toNat / 256) ∧
    r.getD (7 + n) 0 = BitVec.ofNat 8 crcRecv.toNat ∧
    r.getD (8 + n) 0 = BitVec.ofNat 8 (crcRecv.toNat / 256) ∧
    r.getD (9 + n) 0 = (if ok then 0x01 else 0x00) ∧
    (ok = decide (crcCalc = crcRecv) → r.getD (9 + n) 0 = if crcCalc = crcRecv then 0x01 else 0x00)) ∧
  Event.record .bitmapChanged = [0x02] ∧
  Event.record .formatError = [0x03] ∧
  (∀ e : Event, e.record.head? = some 0x01 ∨ e.record.head? = some 0x02 ∨ e.record.head? = some 0x03)

/-- R100: the head event's record leaves byte by byte, first byte first, and the event leaves `EVQ` with its last byte. -/
def Obligations.EventRecordIsSentInOrder : Prop :=
  ∀ (s : State) (e : Event) (rest : List Event), s.evq = e :: rest → s.evtPos = 0 →
    (∀ k, k < e.record.length → evtOut (takeEventByte^[k] s) = e.record[k]?) ∧
    (∀ k, k < e.record.length → (takeEventByte^[k] s).evq = s.evq) ∧
    takeEventByte^[e.record.length] s = { s with evq := rest, evtPos := 0 }

/-- R69, R100, R104, R95: what a transfer on each output port shows, removes and leaves. On the event port the head's record
goes byte by byte and the event goes with its last byte; an `evtPos` at or beyond the head's record shows nothing and is
reached by no run (log entry 11, EngineInvariantKept). Where a queue is empty, nothing changes (log entry 8). -/
def Obligations.OutputPortsDrainOnly : Prop :=
  (∀ s rest, s.offers = .evtReady :: rest → s.evq = [] →
    evtOut s = none ∧ step s = .next { s with offers := rest }) ∧
  (∀ s rest e q, s.offers = .evtReady :: rest → s.evq = e :: q → s.evtPos + 1 < e.record.length →
    evtOut s = e.record[s.evtPos]? ∧ step s = .next { s with offers := rest, evtPos := s.evtPos + 1 }) ∧
  (∀ s rest e q, s.offers = .evtReady :: rest → s.evq = e :: q → e.record.length ≤ s.evtPos + 1 →
    evtOut s = e.record[s.evtPos]? ∧ step s = .next { s with offers := rest, evq := q, evtPos := 0 }) ∧
  (∀ s rest b q, s.offers = .txReady :: rest → s.txq = b :: q →
    txOut s = some b ∧ step s = .next { s with offers := rest, txq := q }) ∧
  (∀ s rest, s.offers = .txReady :: rest → s.txq = [] →
    txOut s = none ∧ step s = .next { s with offers := rest }) ∧
  (∀ s rest v q, s.offers = .rspReady :: rest → s.rspq = v :: q →
    rspOut s = some v ∧ step s = .next { s with offers := rest, rspq := q }) ∧
  (∀ s rest, s.offers = .rspReady :: rest → s.rspq = [] →
    rspOut s = none ∧ step s = .next { s with offers := rest })

/-- R320: `irq` is the level `CFG.IRQEN & (EVQ ≠ [])`; while `rst = 1` it is 0 (R351). -/
def Obligations.IrqFollowsEventQueue : Prop :=
  (∀ s, (signals false s).irq = true ↔ s.cfg.irqen = true ∧ s.evq ≠ []) ∧
  (∀ s, (signals true s).irq = false) ∧
  (∀ s t, step s = .next t → s.cfg.irqen = true → t.cfg = s.cfg → s.evq = [] → t.evq ≠ [] →
    (signals false s).irq = false ∧ (signals false t).irq = true)

/-- R95: every host command word, accepted or refused, produces exactly one response, appended in command order, and an
error response carries one of the codes 1 to 4. That SRST leaves older responses in place is the model's reading (log
entry 3). -/
def Obligations.OneResponsePerCommand : Prop :=
  ∀ (s : State) (w : CmdWord) (rest : List Offer), s.offers = .input (.cmd w) :: rest →
    ∃ t r, step s = .next t ∧ t.rspq = s.rspq ++ [r] ∧
      (r.err = true → r.data = 1 ∨ r.data = 2 ∨ r.data = 3 ∨ r.data = 4)

/-- R361 (how occupancy and need are counted is the model's choice, log entry 6): a circuit that accepts only when its ready
function allows never holds more than its depth, and an unbounded queue is always ready. -/
def Obligations.BackPressureNeverOverflows : Prop :=
  (∀ (d : Nat) (s t : State) (b : Byte) (rest : List Offer), s.offers = .input (.rx b) :: rest →
    circuitRxReady (some d) false s = true → step s = .next t → evqBytes t ≤ d) ∧
  (∀ (d : Nat) (s t : State) (w : CmdWord) (rest : List Offer), s.offers = .input (.cmd w) :: rest →
    circuitCmdReady (some d) false s = true → step s = .next t → t.txq.length ≤ d) ∧
  (∀ s, circuitRxReady none false s = true ∧ circuitCmdReady none false s = true)

/-! ### Reset -/

/-- R46 and R350: every element after reset. -/
def Obligations.ResetValues : Prop :=
  let s := State.reset
  s.stage = .idle ∧ s.len = 0 ∧ s.rcnt = 0 ∧ s.acc = [] ∧ s.crcCalc = 0 ∧ s.crcRecv = 0 ∧
  s.cfg.strict = false ∧ s.cfg.irqen = false ∧
  s.flags = { fmterr := false, crcerr := false, short := false, ovf := false, altseen := false, cmderr := false,
              txovf := false } ∧
  s.txact = false ∧ s.txs = [] ∧ (∀ r c, pixel s.bm r c = false) ∧ s.evq = [] ∧ s.txq = []

/-- R351: a clock edge with `rst = 1` has the effect of reset, and while `rst = 1` no port accepts or offers. What happens
to a response not yet taken is free (log entry 4): it stays or it is dropped. SRST and `rst` both restart the event port
with the emptied queue (log entry 5), keep what is offered (log entry 2), and SRST keeps the responses not yet taken (log
entry 3): the model's choices. -/
def Obligations.RstEdgeResets : Prop :=
  (∀ s rest, s.offers = .rst :: rest →
    ∃ q, (q = s.rspq ∨ q = []) ∧ step s = .next { State.reset with rspq := q, offers := rest }) ∧
  (∀ s, signals true s =
    { rxReady := false, cmdReady := false, rspValid := false, evtValid := false, txValid := false, irq := false }) ∧
  (∀ s, exec .srst s = .next { State.reset with rspq := s.rspq ++ [okRsp 0], offers := s.offers })

/-! ### Whole-machine rules -/

/-- R24 to R26 with R150 to R163: the invariant of R27 ("`received_count <= length` while in the payload-receiving stage;
`accumulator.len() == received_count`" and what the spec infers beside it, marked derived) is kept by every step from every
state that has it. -/
def Obligations.DecoderInvariantKept : Prop :=
  ∀ s t : State, DecoderInv s → step s = .next t → DecoderInv t

/-- R24, R26 to R28, R34, R100, R101: the engine's invariant is kept by every step. -/
def Obligations.EngineInvariantKept : Prop :=
  ∀ s t : State, EngineInv Config.params s → step s = .next t → EngineInv Config.params t

/-- The engine's invariant holds after reset, for every legal choice of the parameters, and the machine's own are legal (R8,
log entry 1). For the elements of R20 the reset values are R46's and R350's; that nothing of an event record has been sent
(R100) is the model's reset value of `evtPos`, a design choice (log entry 5). -/
def Obligations.EngineInvariantAtReset : Prop :=
  (∀ p : Params, p.Legal → EngineInv p State.reset) ∧ Config.params.Legal ∧ TxFrames State.reset.txq

/-- R104, R83: `TXQ` stays a tail of whole wire frames laid end to end. -/
def Obligations.TransmitQueueHoldsFrames : Prop :=
  ∀ s t : State, StagingInv s → TxFrames s.txq → step s = .next t → TxFrames t.txq

/-- R33: a sticky flag is cleared only by a WRREG to STATUS with a 1 in its bit or by reset, and is set only in the case its
row of R32 names. -/
def Obligations.StickyFlagsDiscipline : Prop :=
  ∀ s t : State, step s = .next t →
    -- cleared only so
    ((s.flags.fmterr = true → t.flags.fmterr = false → NextResets s ∨ ∃ v, NextIs s (.wrreg 0 v) ∧ v.getLsbD 8 = true) ∧
     (s.flags.crcerr = true → t.flags.crcerr = false → NextResets s ∨ ∃ v, NextIs s (.wrreg 0 v) ∧ v.getLsbD 9 = true) ∧
     (s.flags.short = true → t.flags.short = false → NextResets s ∨ ∃ v, NextIs s (.wrreg 0 v) ∧ v.getLsbD 10 = true) ∧
     (s.flags.ovf = true → t.flags.ovf = false → NextResets s ∨ ∃ v, NextIs s (.wrreg 0 v) ∧ v.getLsbD 11 = true) ∧
     (s.flags.altseen = true → t.flags.altseen = false →
       NextResets s ∨ ∃ v, NextIs s (.wrreg 0 v) ∧ v.getLsbD 12 = true) ∧
     (s.flags.cmderr = true → t.flags.cmderr = false →
       NextResets s ∨ ∃ v, NextIs s (.wrreg 0 v) ∧ v.getLsbD 13 = true) ∧
     (s.flags.txovf = true → t.flags.txovf = false →
       NextResets s ∨ ∃ v, NextIs s (.wrreg 0 v) ∧ v.getLsbD 14 = true)) ∧
    -- set only so
    ((s.flags.fmterr = false → t.flags.fmterr = true →
       NextIs s (.feed 0xBA) ∧ s.stage = .foot2 ∧ commandOf s.acc = Config.params.screenCmdId ∧
         (s.acc.length < 5 ∨ (s.acc.length - 2) % 3 ≠ 0)) ∧
     (s.flags.crcerr = false → t.flags.crcerr = true →
       NextIs s (.feed 0xBA) ∧ s.stage = .foot2 ∧ s.crcCalc ≠ s.crcRecv) ∧
     (s.flags.short = false → t.flags.short = true →
       NextIs s (.feed 0xBA) ∧ s.stage = .foot2 ∧ s.acc.length < 2) ∧
     (s.flags.ovf = false → t.flags.ovf = true →
       ∃ b, NextIs s (.feed b) ∧ s.stage = .lenhi ∧
         Config.params.maxPayload < (s.len ||| (b.setWidth 16 <<< 8)).toNat) ∧
     (s.flags.altseen = false → t.flags.altseen = true →
       ∃ b, NextIs s (.feed b) ∧ s.stage = .idle ∧ Config.params.altSyncByte = some b) ∧
     (s.flags.cmderr = false → t.flags.cmderr = true →
       ∃ w rest code, s.offers = .input (.cmd w) :: rest ∧ (code = 1 ∨ code = 2 ∨ code = 3) ∧
         t.rspq = s.rspq ++ [errRsp code]) ∧
     (s.flags.txovf = false → t.flags.txovf = true →
       ((∃ v, NextIs s (.txuint v) ∧ 65535 < s.txs.length + (serUint v).length) ∨
         ∃ b x, NextIs s (.txbyte b x) ∧ 65535 < s.txs.length + 1) ∧
       s.txact = true ∧ t.txact = false ∧ t.txs = [] ∧ t.rspq = s.rspq ++ [errRsp 4]))

/-- R61: the bitmap is written only by the screen dispatch of a FEED that completes a well-formed screen frame (R161, R162,
R240, R242, R244, R247) and by reset (R283, R351); every other step leaves every pixel. -/
def Obligations.BitmapWrittenOnlyByScreenFrame : Prop :=
  ∀ s t : State, step s = .next t →
    t.bm = s.bm ∨ NextResets s ∨
      (NextIs s (.feed 0xBA) ∧ s.stage = .foot2 ∧ commandOf s.acc = Config.params.screenCmdId ∧
        5 ≤ s.acc.length ∧ (s.acc.length - 2) % 3 = 0 ∧ t.evq.getLast? = some .bitmapChanged ∧
        t.bm = screenApply (s.acc.getD 4 0) (s.acc.drop 5) s.bm)

/-- R363, R73: transmit staging and reception do not interact: a FEED and a transmit-side command offered together end in
the same state in either order. -/
def Obligations.StagingCommutesWithFeed : Prop :=
  ∀ (s t u : State) (b : Byte) (i : Instr), isStaging i = true →
    exec i s = .next t → exec (.feed b) s = .next u →
    ∃ v, exec (.feed b) t = .next v ∧ exec i u = .next v

/-- R311, R313: an instruction whose operands name no unit of the engine is refused with BAD_OPERAND and has no other effect;
any other instruction, but for the three that need a staged frame, is not refused: FEED has no response, a command's response
has `rsp_err = 0`, and CMDERR is not set. -/
def Obligations.IllFormedOperandsRefused : Prop :=
  (∀ i s, i.wellFormed = false → exec i s = .next (refusedWith 2 s)) ∧
  (∀ i s t, i.wellFormed = true → needsStagedFrame i = false → exec i s = .next t →
    (((∃ b, i = .feed b) ∧ t.rspq = s.rspq) ∨ (¬ (∃ b, i = .feed b) ∧ ∃ v, t.rspq = s.rspq ++ [okRsp v])) ∧
    (t.flags.cmderr = true → s.flags.cmderr = true))

/-- R106, R107, R208: every line of the assembly table and FEEDS assemble to their transactions where each operand fits its
field, and to none where one does not; SEND is TXBEGIN, the lines of its arguments in order, TXEND. The model's choices, not
the spec's (log entry 15): an operand of TXBYTE, and so a small integer of SEND, fits where it has at most 32 bits, a raw byte
of SEND where it has at most 8; FEEDS of no byte is a line of no transaction. That a TXBYTE line keeps the bits above its byte
in the instruction is log entry 10. -/
def Obligations.SendExpandsToStaging : Prop :=
  -- the lines of R106
  ((∀ b, (AsmLine.feed b).assemble = if b < 256 then some [.feed (BitVec.ofNat 8 b)] else none) ∧
   AsmLine.nop.assemble = some [.nop] ∧ AsmLine.prst.assemble = some [.prst] ∧ AsmLine.srst.assemble = some [.srst] ∧
   (∀ r, (AsmLine.rdreg r).assemble = if r < 256 then some [.rdreg (BitVec.ofNat 8 r)] else none) ∧
   (∀ r v, (AsmLine.wrreg r v).assemble =
     if r < 256 ∧ v < 65536 then some [.wrreg (BitVec.ofNat 8 r) (BitVec.ofNat 16 v)] else none) ∧
   (∀ c, (AsmLine.txbegin c).assemble = if c < 65536 then some [.txbegin (BitVec.ofNat 16 c)] else none) ∧
   (∀ v, (AsmLine.txuint v).assemble = if v < 2 ^ 32 then some [.txuint (BitVec.ofNat 32 v)] else none) ∧
   (∀ a, (AsmLine.txbyte a).assemble =
     if a < 2 ^ 32 then some [.txbyte (BitVec.ofNat 8 a) (BitVec.ofNat 24 (a / 256))] else none) ∧
   AsmLine.txend.assemble = some [.txend] ∧
   (∀ c g, (AsmLine.bmrd c g).assemble =
     if c < 256 ∧ g < 256 then some [.bmrd (BitVec.ofNat 8 c) (BitVec.ofNat 8 g)] else none) ∧
   (∀ b q, (AsmLine.ciph b q).assemble =
     if b < 256 ∧ q < 65536 then some [.ciph (BitVec.ofNat 8 b) (BitVec.ofNat 16 q)] else none) ∧
   (∀ b c, (AsmLine.crcu b c).assemble =
     if b < 256 ∧ c < 65536 then some [.crcu (BitVec.ofNat 8 b) (BitVec.ofNat 16 c)] else none)) ∧
  -- FEEDS
  ((∀ bs : List Nat, (∀ b ∈ bs, b < 256) →
     (AsmLine.feeds bs).assemble = some (bs.map fun b => .feed (BitVec.ofNat 8 b))) ∧
   (∀ bs : List Nat, (∃ b ∈ bs, 256 ≤ b) → (AsmLine.feeds bs).assemble = none)) ∧
  -- SEND
  ((∀ (cmd : Nat) (args : List SendArg) (body : List (List Instr)), cmd < 65536 → args.mapM asmArg = some body →
     (AsmLine.send cmd args).assemble = some (.txbegin (BitVec.ofNat 16 cmd) :: (body.flatten ++ [.txend]))) ∧
   (∀ cmd args, 65536 ≤ cmd ∨ (∃ a ∈ args, asmArg a = none) → (AsmLine.send cmd args).assemble = none)) ∧
  -- the arguments of SEND
  ((∀ v, asmArg (.uint v) = if v < 2 ^ 32 then some [.txuint (BitVec.ofNat 32 v)] else none) ∧
   (∀ bs : List Nat, (∀ b ∈ bs, b < 256) →
     asmArg (.rawBytes bs) = some (bs.map fun b => .txbyte (BitVec.ofNat 8 b) 0)) ∧
   (∀ bs : List Nat, (∃ b ∈ bs, 256 ≤ b) → asmArg (.rawBytes bs) = none) ∧
   (∀ vs : List Nat, (∀ v ∈ vs, v < 2 ^ 32) →
     asmArg (.smallInts vs) = some (vs.map fun v => .txbyte (BitVec.ofNat 8 v) (BitVec.ofNat 24 (v / 256)))) ∧
   (∀ vs : List Nat, (∃ v ∈ vs, 2 ^ 32 ≤ v) → asmArg (.smallInts vs) = none))
end

