-- ==== Sys2Proof/Laws/Asm.lean ====
section
/-! SUPPORT. What the assembler's shared operations can do (spec 30_encoding.md R106, R107). -/

namespace Sys2Proof.Machine

/-- An operand that fits its field is that field; one that does not is an error. -/
theorem asmField_eq (w n : Nat) : asmField w n = if n < 2 ^ w then some (BitVec.ofNat w n) else none := rfl

/-- TXBYTE's operand is split into its byte and the bits that the engine ignores (R204; log entries 10 and 15). -/
theorem asmTxbyte_eq (a : Nat) :
    asmTxbyte a = if a < 2 ^ 32 then some (.txbyte (BitVec.ofNat 8 a) (BitVec.ofNat 24 (a / 256))) else none := by
  unfold asmTxbyte asmField
  split
  · have h8 : (BitVec.ofNat 32 a).extractLsb' 0 8 = BitVec.ofNat 8 a := by
      apply BitVec.eq_of_toNat_eq
      simp
    have h24 : (BitVec.ofNat 32 a).extractLsb' 8 24 = BitVec.ofNat 24 (a / 256) := by
      apply BitVec.eq_of_toNat_eq
      simp [Nat.shiftRight_eq_div_pow]
      omega
    simp [h8, h24]
  · rfl

/-- A list of operands that all assemble, assembles to their images in order. -/
theorem mapM_eq_map {α β : Type} {f : α → Option β} {g : α → β} :
    ∀ {xs : List α}, (∀ x ∈ xs, f x = some (g x)) → xs.mapM f = some (xs.map g)
  | [], _ => rfl
  | x :: xs, h => by
    simp [h x, mapM_eq_map fun y hy => h y (List.mem_cons_of_mem x hy)]

/-- One operand that does not assemble makes the whole list an error. -/
theorem mapM_eq_none {α β : Type} {f : α → Option β} :
    ∀ {xs : List α}, (∃ x ∈ xs, f x = none) → xs.mapM f = none
  | [], h => by simp at h
  | x :: xs, h => by
    cases hx : f x with
    | none => simp [hx]
    | some y =>
      have : ∃ z ∈ xs, f z = none := by simpa [hx] using h
      simp [hx, mapM_eq_none this]

end Sys2Proof.Machine
end

