-- ==== Sys2Proof/Laws/Bitmap.lean ====
section
/-! SUPPORT. Reading the bitmap after writing it (spec 10_state.md R35, R36). -/

namespace Sys2Proof.Machine

@[simp] theorem pixel_zero (r c : Nat) : pixel Bitmap.zero r c = false := by
  unfold pixel Bitmap.zero
  by_cases h : r < 64 <;> simp [h]

theorem pixel_of_lt (bm : Bitmap) {r : Nat} (h : r < 64) (c : Nat) : pixel bm r c = bm[r].getLsbD c := by
  simp [pixel, h]

/-- R36: no pixel exists outside the grid. -/
theorem pixel_outside (bm : Bitmap) {r c : Nat} (h : 64 ≤ r ∨ 128 ≤ c) : pixel bm r c = false := by
  by_cases hr : r < 64
  · rw [pixel_of_lt bm hr]
    exact BitVec.getLsbD_of_ge _ _ (by omega)
  · simp [pixel, hr]

theorem getLsbD_setColumn (row : BitVec 128) (c c' : Nat) (v : Bool) (hc : c < 128) :
    (setColumn row c v).getLsbD c' = if c' = c then v else row.getLsbD c' := by
  unfold setColumn
  by_cases e : c' = c
  · subst e
    cases v <;> simp [hc]
  · have e' : ¬ c = c' := fun h => e h.symm
    cases v
    · by_cases h : c' < 128
      · simp [e, h]
      · simp [e, h, BitVec.getLsbD_of_ge row c' (by omega)]
    · simp [e, e']

/-- Read after write, for one pixel. -/
theorem pixel_setPixel (bm : Bitmap) (r c r' c' : Nat) (v : Bool) (hr : r < 64) (hc : c < 128) :
    pixel (setPixel bm r c v) r' c' = if r' = r ∧ c' = c then v else pixel bm r' c' := by
  by_cases hr' : r' < 64
  · rw [pixel_of_lt _ hr', pixel_of_lt _ hr']
    simp only [setPixel, hr, dite_true, Vector.getElem_set]
    by_cases e : r = r'
    · subst e
      simp [getLsbD_setColumn _ _ _ _ hc]
    · have e' : ¬ r' = r := fun h => e h.symm
      simp [e, e']
  · have : r' ≠ r := by omega
    simp [pixel, hr', this]

/-- The column byte's bits (R62). -/
theorem getLsbD_columnByte (bm : Bitmap) (col group i : Nat) (hi : i < 8) :
    (columnByte bm col group).getLsbD i = pixel bm (8 * group + i) col := by
  have key : ∀ (l : List Nat) (v : Byte),
      (l.foldl (fun v i => if pixel bm (8 * group + i) col then v ||| BitVec.twoPow 8 i else v) v).getLsbD i =
        (v.getLsbD i || (decide (i ∈ l) && pixel bm (8 * group + i) col)) := by
    intro l
    induction l with
    | nil => simp
    | cons j l ih =>
      intro v
      rw [List.foldl_cons, ih]
      by_cases e : i = j
      · subst e
        cases h : pixel bm (8 * group + i) col <;> simp [hi]
      · have e' : ¬ j = i := fun h => e h.symm
        cases h : pixel bm (8 * group + j) col <;> simp [e, e']
  rw [columnByte, key]
  simp [hi]

/-- Two bitmaps with the same pixels are equal. -/
theorem Bitmap.ext_pixel {a b : Bitmap} (h : ∀ r c, r < 64 → c < 128 → pixel a r c = pixel b r c) : a = b := by
  apply Vector.ext
  intro r hr
  apply BitVec.eq_of_getLsbD_eq
  intro c hc
  have := h r c hr hc
  rwa [pixel_of_lt _ hr, pixel_of_lt _ hr] at this

/-- The inner loop of R244: the pixels of rows `base + i` in one column, for the `i` of a list. -/
theorem pixel_setPixels (m : Byte) (base col : Nat) (hb : base + 8 ≤ 64) (hc : col < 128) (r c : Nat) :
    ∀ (l : List Nat) (bm : Bitmap), (∀ i ∈ l, i < 8) →
      pixel (l.foldl (fun bm i => if base + i < 64 then setPixel bm (base + i) col (m.getLsbD i) else bm) bm) r c =
        if c = col ∧ ∃ i ∈ l, r = base + i then m.getLsbD (r - base) else pixel bm r c := by
  intro l
  induction l with
  | nil => simp
  | cons j l ih =>
    intro bm hl
    have hj : j < 8 := hl j (by simp)
    rw [List.foldl_cons, if_pos (show base + j < 64 by omega), ih _ (fun i hi => hl i (by simp [hi])),
      pixel_setPixel _ _ _ _ _ _ (by omega) hc]
    by_cases ec : c = col
    · by_cases hx : ∃ i ∈ l, r = base + i
      · obtain ⟨i, hi, e⟩ := hx
        rw [if_pos ⟨ec, i, hi, e⟩, if_pos ⟨ec, i, by simp [hi], e⟩]
      · by_cases er : r = base + j
        · rw [if_neg (fun h => hx h.2), if_pos ⟨er, ec⟩, if_pos ⟨ec, j, by simp, er⟩, er]
          congr 1
          omega
        · have hn : ¬ ∃ i ∈ j :: l, r = base + i := by
            rintro ⟨i, hi, e⟩
            rcases List.mem_cons.mp hi with rfl | hi
            · exact er e
            · exact hx ⟨i, hi, e⟩
          rw [if_neg (fun h => hx h.2), if_neg (fun h => er h.1), if_neg (fun h => hn h.2)]
    · simp [ec]

end Sys2Proof.Machine
end

