-- ==== Sys2Proof/Laws/Decode.lean ====
section
/-! SUPPORT. Lemmas about the fields of a command word and the decoder. -/

namespace Sys2Proof

@[simp] theorem opField_cmdWord (op : Byte) (a : Word) : opField (cmdWord op a) = op := by
  apply BitVec.eq_of_getLsbD_eq
  intro i hi
  have h1 : 32 + i < 40 := by omega
  simp [opField, cmdWord, hi, h1]

@[simp] theorem argField_cmdWord (op : Byte) (a : Word) : argField (cmdWord op a) = a := by
  apply BitVec.eq_of_getLsbD_eq
  intro i hi
  have h1 : i < 40 := by omega
  simp [argField, cmdWord, hi, h1]

/-- A word is its opcode and its operand field. -/
theorem cmdWord_fields (w : CmdWord) : cmdWord (opField w) (argField w) = w := by
  apply BitVec.eq_of_getLsbD_eq
  intro i hi
  by_cases h : i < 32
  · simp [opField, argField, cmdWord, h, hi]
  · have h1 : i - 32 < 8 := by omega
    have h2 : 32 + (i - 32) = i := by omega
    simp [opField, argField, cmdWord, h, hi, h1, h2]

/-- The concatenation `op ++ a` of R89 is the encoder's word. -/
theorem append_eq_cmdWord (op : Byte) (a : Word) : (op ++ a : BitVec 40) = cmdWord op a := by
  apply BitVec.eq_of_getLsbD_eq
  intro i hi
  have e : BitVec.getLsbD (w := 40) (op ++ a) i = if i < 32 then a.getLsbD i else op.getLsbD (i - 32) := by
    have h := BitVec.getLsbD_append (x := op) (y := a) (i := i)
    exact h.trans (by cases decide (i < 32) <;> simp_all)
  refine e.trans ?_
  by_cases h : i < 32
  · simp [cmdWord, h, hi]
  · have h3 : 32 ≤ i := by omega
    simp [cmdWord, h, hi, h3]

/-- The decoder on a word given by its fields: the three cases of R313's first two checks. -/
theorem decodeCmd_cmdWord (op : Byte) (a : Word) :
    decodeCmd (cmdWord op a) =
      match opcodeOf op with
      | none => .error .illegalOpcode
      | some o => if a &&& reservedMask o = 0 then .ok (operandsOf o a) else .error .badOperand := by
  cases h : opcodeOf op <;> simp only [decodeCmd, opField_cmdWord, argField_cmdWord, h]

/-- The decoder on a word whose opcode is assigned. -/
theorem decodeCmd_assigned {op : Byte} {o : Opcode} (h : opcodeOf op = some o) (a : Word) :
    decodeCmd (cmdWord op a) =
      if a &&& reservedMask o = 0 then .ok (operandsOf o a) else .error .badOperand := by
  rw [decodeCmd_cmdWord, h]

/-- Only the twelve opcodes of R90 are assigned, each to one byte. -/
theorem opcodeOf_mem {op : Byte} {o : Opcode} (h : opcodeOf op = some o) : (op, o) ∈ opcodeMap := by
  revert h
  revert op o
  decide

/-- What an accepted command word is: an assigned opcode, clear reserved bits, and its operands. -/
theorem decodeCmd_ok {w : CmdWord} {i : Instr} (h : decodeCmd w = .ok i) :
    ∃ o, opcodeOf (opField w) = some o ∧ argField w &&& reservedMask o = 0 ∧ i = operandsOf o (argField w) := by
  unfold decodeCmd at h
  split at h
  · cases h
  · next o ho =>
    split at h
    · next hm =>
      cases h
      exact ⟨o, ho, hm, rfl⟩
    · cases h

/-- A command word never decodes to FEED, which has no opcode (R90). -/
theorem decodeCmd_ne_feed {w : CmdWord} {b : Byte} : decodeCmd w ≠ .ok (.feed b) := by
  intro h
  obtain ⟨o, -, -, h⟩ := decodeCmd_ok h
  cases o <;> cases h

/-- Operand fields of R91: an 8-bit field at bit 0. -/
theorem fields8 (r : Byte) :
    (r.setWidth 32).extractLsb' 0 8 = r ∧ (r.setWidth 32 : Word) &&& 0xFFFFFF00 = 0 := by
  refine ⟨?_, ?_⟩
  · apply BitVec.eq_of_getLsbD_eq
    intro i hi
    have : i < 32 := by omega
    simp [hi, this]
  · apply BitVec.eq_of_getLsbD_eq
    intro i hi
    interval_cases i <;> simp

/-- Operand fields of R91: a 16-bit field at bit 0. -/
theorem fields16 (c : U16) :
    (c.setWidth 32).extractLsb' 0 16 = c ∧ (c.setWidth 32 : Word) &&& 0xFFFF0000 = 0 := by
  refine ⟨?_, ?_⟩
  · apply BitVec.eq_of_getLsbD_eq
    intro i hi
    have : i < 32 := by omega
    simp [hi, this]
  · apply BitVec.eq_of_getLsbD_eq
    intro i hi
    interval_cases i <;> simp

/-- Operand fields of R91: an 8-bit field at bit 8 above one at bit 0. -/
theorem fields8_8 (g c : Byte) :
    ((g.setWidth 32 <<< 8) ||| c.setWidth 32 : Word).extractLsb' 0 8 = c ∧
    ((g.setWidth 32 <<< 8) ||| c.setWidth 32 : Word).extractLsb' 8 8 = g ∧
    ((g.setWidth 32 <<< 8) ||| c.setWidth 32 : Word) &&& 0xFFFF0000 = 0 := by
  refine ⟨?_, ?_, ?_⟩
  · apply BitVec.eq_of_getLsbD_eq
    intro i hi
    have : i < 32 := by omega
    simp [hi, this]
  · apply BitVec.eq_of_getLsbD_eq
    intro i hi
    have : 8 + i < 32 := by omega
    simp [hi, this]
  · apply BitVec.eq_of_getLsbD_eq
    intro i hi
    interval_cases i <;> simp

/-- Operand fields of R91: a 16-bit field at bit 8 above an 8-bit field at bit 0. -/
theorem fields16_8 (v : U16) (r : Byte) :
    ((v.setWidth 32 <<< 8) ||| r.setWidth 32 : Word).extractLsb' 0 8 = r ∧
    ((v.setWidth 32 <<< 8) ||| r.setWidth 32 : Word).extractLsb' 8 16 = v ∧
    ((v.setWidth 32 <<< 8) ||| r.setWidth 32 : Word) &&& 0xFF000000 = 0 := by
  refine ⟨?_, ?_, ?_⟩
  · apply BitVec.eq_of_getLsbD_eq
    intro i hi
    have : i < 32 := by omega
    simp [hi, this]
  · apply BitVec.eq_of_getLsbD_eq
    intro i hi
    have : 8 + i < 32 := by omega
    simp [hi, this]
  · apply BitVec.eq_of_getLsbD_eq
    intro i hi
    interval_cases i <;> simp

/-- Operand fields of R91: a 24-bit field at bit 8 above an 8-bit field at bit 0. -/
theorem fields24_8 (x : BitVec 24) (b : Byte) :
    ((x.setWidth 32 <<< 8) ||| b.setWidth 32 : Word).extractLsb' 0 8 = b ∧
    ((x.setWidth 32 <<< 8) ||| b.setWidth 32 : Word).extractLsb' 8 24 = x := by
  refine ⟨?_, ?_⟩
  · apply BitVec.eq_of_getLsbD_eq
    intro i hi
    have : i < 32 := by omega
    simp [hi, this]
  · apply BitVec.eq_of_getLsbD_eq
    intro i hi
    have : 8 + i < 32 := by omega
    simp [hi, this]

end Sys2Proof
end

