-- ==== Sys2Proof/Laws/State.lean ====
section
/-! SUPPORT. One lemma per field per shared update of the state, each true by unfolding one record update. -/

namespace Sys2Proof.Machine

@[simp] theorem respond_stage (v : Word) (s : State) : (respond v s).stage = s.stage := rfl
@[simp] theorem respond_len (v : Word) (s : State) : (respond v s).len = s.len := rfl
@[simp] theorem respond_rcnt (v : Word) (s : State) : (respond v s).rcnt = s.rcnt := rfl
@[simp] theorem respond_acc (v : Word) (s : State) : (respond v s).acc = s.acc := rfl
@[simp] theorem respond_crcCalc (v : Word) (s : State) : (respond v s).crcCalc = s.crcCalc := rfl
@[simp] theorem respond_crcRecv (v : Word) (s : State) : (respond v s).crcRecv = s.crcRecv := rfl
@[simp] theorem respond_cfg (v : Word) (s : State) : (respond v s).cfg = s.cfg := rfl
@[simp] theorem respond_flags (v : Word) (s : State) : (respond v s).flags = s.flags := rfl
@[simp] theorem respond_txact (v : Word) (s : State) : (respond v s).txact = s.txact := rfl
@[simp] theorem respond_txs (v : Word) (s : State) : (respond v s).txs = s.txs := rfl
@[simp] theorem respond_bm (v : Word) (s : State) : (respond v s).bm = s.bm := rfl
@[simp] theorem respond_evq (v : Word) (s : State) : (respond v s).evq = s.evq := rfl
@[simp] theorem respond_txq (v : Word) (s : State) : (respond v s).txq = s.txq := rfl
@[simp] theorem respond_evtPos (v : Word) (s : State) : (respond v s).evtPos = s.evtPos := rfl
@[simp] theorem respond_rspq (v : Word) (s : State) : (respond v s).rspq = s.rspq ++ [{ err := false, data := v }] := rfl
@[simp] theorem respond_offers (v : Word) (s : State) : (respond v s).offers = s.offers := rfl

@[simp] theorem raise_stage (e : CmdError) (s : State) : (raise e s).stage = s.stage := rfl
@[simp] theorem raise_len (e : CmdError) (s : State) : (raise e s).len = s.len := rfl
@[simp] theorem raise_rcnt (e : CmdError) (s : State) : (raise e s).rcnt = s.rcnt := rfl
@[simp] theorem raise_acc (e : CmdError) (s : State) : (raise e s).acc = s.acc := rfl
@[simp] theorem raise_crcCalc (e : CmdError) (s : State) : (raise e s).crcCalc = s.crcCalc := rfl
@[simp] theorem raise_crcRecv (e : CmdError) (s : State) : (raise e s).crcRecv = s.crcRecv := rfl
@[simp] theorem raise_cfg (e : CmdError) (s : State) : (raise e s).cfg = s.cfg := rfl
@[simp] theorem raise_flags (e : CmdError) (s : State) : (raise e s).flags = { s.flags with cmderr := s.flags.cmderr || setsCmdErr e } := rfl
@[simp] theorem raise_txact (e : CmdError) (s : State) : (raise e s).txact = s.txact := rfl
@[simp] theorem raise_txs (e : CmdError) (s : State) : (raise e s).txs = s.txs := rfl
@[simp] theorem raise_bm (e : CmdError) (s : State) : (raise e s).bm = s.bm := rfl
@[simp] theorem raise_evq (e : CmdError) (s : State) : (raise e s).evq = s.evq := rfl
@[simp] theorem raise_txq (e : CmdError) (s : State) : (raise e s).txq = s.txq := rfl
@[simp] theorem raise_evtPos (e : CmdError) (s : State) : (raise e s).evtPos = s.evtPos := rfl
@[simp] theorem raise_rspq (e : CmdError) (s : State) : (raise e s).rspq = s.rspq ++ [{ err := true, data := (errorCode e).setWidth 32 }] := rfl
@[simp] theorem raise_offers (e : CmdError) (s : State) : (raise e s).offers = s.offers := rfl

@[simp] theorem emit_stage (e : Event) (s : State) : (emit e s).stage = s.stage := rfl
@[simp] theorem emit_len (e : Event) (s : State) : (emit e s).len = s.len := rfl
@[simp] theorem emit_rcnt (e : Event) (s : State) : (emit e s).rcnt = s.rcnt := rfl
@[simp] theorem emit_acc (e : Event) (s : State) : (emit e s).acc = s.acc := rfl
@[simp] theorem emit_crcCalc (e : Event) (s : State) : (emit e s).crcCalc = s.crcCalc := rfl
@[simp] theorem emit_crcRecv (e : Event) (s : State) : (emit e s).crcRecv = s.crcRecv := rfl
@[simp] theorem emit_cfg (e : Event) (s : State) : (emit e s).cfg = s.cfg := rfl
@[simp] theorem emit_flags (e : Event) (s : State) : (emit e s).flags = s.flags := rfl
@[simp] theorem emit_txact (e : Event) (s : State) : (emit e s).txact = s.txact := rfl
@[simp] theorem emit_txs (e : Event) (s : State) : (emit e s).txs = s.txs := rfl
@[simp] theorem emit_bm (e : Event) (s : State) : (emit e s).bm = s.bm := rfl
@[simp] theorem emit_evq (e : Event) (s : State) : (emit e s).evq = s.evq ++ [e] := rfl
@[simp] theorem emit_txq (e : Event) (s : State) : (emit e s).txq = s.txq := rfl
@[simp] theorem emit_evtPos (e : Event) (s : State) : (emit e s).evtPos = s.evtPos := rfl
@[simp] theorem emit_rspq (e : Event) (s : State) : (emit e s).rspq = s.rspq := rfl
@[simp] theorem emit_offers (e : Event) (s : State) : (emit e s).offers = s.offers := rfl

@[simp] theorem send_stage (bs : List Byte) (s : State) : (send bs s).stage = s.stage := rfl
@[simp] theorem send_len (bs : List Byte) (s : State) : (send bs s).len = s.len := rfl
@[simp] theorem send_rcnt (bs : List Byte) (s : State) : (send bs s).rcnt = s.rcnt := rfl
@[simp] theorem send_acc (bs : List Byte) (s : State) : (send bs s).acc = s.acc := rfl
@[simp] theorem send_crcCalc (bs : List Byte) (s : State) : (send bs s).crcCalc = s.crcCalc := rfl
@[simp] theorem send_crcRecv (bs : List Byte) (s : State) : (send bs s).crcRecv = s.crcRecv := rfl
@[simp] theorem send_cfg (bs : List Byte) (s : State) : (send bs s).cfg = s.cfg := rfl
@[simp] theorem send_flags (bs : List Byte) (s : State) : (send bs s).flags = s.flags := rfl
@[simp] theorem send_txact (bs : List Byte) (s : State) : (send bs s).txact = s.txact := rfl
@[simp] theorem send_txs (bs : List Byte) (s : State) : (send bs s).txs = s.txs := rfl
@[simp] theorem send_bm (bs : List Byte) (s : State) : (send bs s).bm = s.bm := rfl
@[simp] theorem send_evq (bs : List Byte) (s : State) : (send bs s).evq = s.evq := rfl
@[simp] theorem send_txq (bs : List Byte) (s : State) : (send bs s).txq = s.txq ++ bs := rfl
@[simp] theorem send_evtPos (bs : List Byte) (s : State) : (send bs s).evtPos = s.evtPos := rfl
@[simp] theorem send_rspq (bs : List Byte) (s : State) : (send bs s).rspq = s.rspq := rfl
@[simp] theorem send_offers (bs : List Byte) (s : State) : (send bs s).offers = s.offers := rfl

@[simp] theorem toIdle_stage (s : State) : (toIdle s).stage = .idle := rfl
@[simp] theorem toIdle_len (s : State) : (toIdle s).len = 0 := rfl
@[simp] theorem toIdle_rcnt (s : State) : (toIdle s).rcnt = 0 := rfl
@[simp] theorem toIdle_acc (s : State) : (toIdle s).acc = [] := rfl
@[simp] theorem toIdle_crcCalc (s : State) : (toIdle s).crcCalc = s.crcCalc := rfl
@[simp] theorem toIdle_crcRecv (s : State) : (toIdle s).crcRecv = s.crcRecv := rfl
@[simp] theorem toIdle_cfg (s : State) : (toIdle s).cfg = s.cfg := rfl
@[simp] theorem toIdle_flags (s : State) : (toIdle s).flags = s.flags := rfl
@[simp] theorem toIdle_txact (s : State) : (toIdle s).txact = s.txact := rfl
@[simp] theorem toIdle_txs (s : State) : (toIdle s).txs = s.txs := rfl
@[simp] theorem toIdle_bm (s : State) : (toIdle s).bm = s.bm := rfl
@[simp] theorem toIdle_evq (s : State) : (toIdle s).evq = s.evq := rfl
@[simp] theorem toIdle_txq (s : State) : (toIdle s).txq = s.txq := rfl
@[simp] theorem toIdle_evtPos (s : State) : (toIdle s).evtPos = s.evtPos := rfl
@[simp] theorem toIdle_rspq (s : State) : (toIdle s).rspq = s.rspq := rfl
@[simp] theorem toIdle_offers (s : State) : (toIdle s).offers = s.offers := rfl

@[simp] theorem resetElements_stage (s : State) : (resetElements s).stage = .idle := rfl
@[simp] theorem resetElements_len (s : State) : (resetElements s).len = 0 := rfl
@[simp] theorem resetElements_rcnt (s : State) : (resetElements s).rcnt = 0 := rfl
@[simp] theorem resetElements_acc (s : State) : (resetElements s).acc = [] := rfl
@[simp] theorem resetElements_crcCalc (s : State) : (resetElements s).crcCalc = 0 := rfl
@[simp] theorem resetElements_crcRecv (s : State) : (resetElements s).crcRecv = 0 := rfl
@[simp] theorem resetElements_cfg (s : State) : (resetElements s).cfg = Cfg.reset := rfl
@[simp] theorem resetElements_flags (s : State) : (resetElements s).flags = Flags.reset := rfl
@[simp] theorem resetElements_txact (s : State) : (resetElements s).txact = false := rfl
@[simp] theorem resetElements_txs (s : State) : (resetElements s).txs = [] := rfl
@[simp] theorem resetElements_bm (s : State) : (resetElements s).bm = Bitmap.zero := rfl
@[simp] theorem resetElements_evq (s : State) : (resetElements s).evq = [] := rfl
@[simp] theorem resetElements_txq (s : State) : (resetElements s).txq = [] := rfl
@[simp] theorem resetElements_evtPos (s : State) : (resetElements s).evtPos = 0 := rfl
@[simp] theorem resetElements_rspq (s : State) : (resetElements s).rspq = s.rspq := rfl
@[simp] theorem resetElements_offers (s : State) : (resetElements s).offers = s.offers := rfl

@[simp] theorem resetEdge_stage (s : State) : (resetEdge s).stage = .idle := rfl
@[simp] theorem resetEdge_len (s : State) : (resetEdge s).len = 0 := rfl
@[simp] theorem resetEdge_rcnt (s : State) : (resetEdge s).rcnt = 0 := rfl
@[simp] theorem resetEdge_acc (s : State) : (resetEdge s).acc = [] := rfl
@[simp] theorem resetEdge_crcCalc (s : State) : (resetEdge s).crcCalc = 0 := rfl
@[simp] theorem resetEdge_crcRecv (s : State) : (resetEdge s).crcRecv = 0 := rfl
@[simp] theorem resetEdge_cfg (s : State) : (resetEdge s).cfg = Cfg.reset := rfl
@[simp] theorem resetEdge_flags (s : State) : (resetEdge s).flags = Flags.reset := rfl
@[simp] theorem resetEdge_txact (s : State) : (resetEdge s).txact = false := rfl
@[simp] theorem resetEdge_txs (s : State) : (resetEdge s).txs = [] := rfl
@[simp] theorem resetEdge_bm (s : State) : (resetEdge s).bm = Bitmap.zero := rfl
@[simp] theorem resetEdge_evq (s : State) : (resetEdge s).evq = [] := rfl
@[simp] theorem resetEdge_txq (s : State) : (resetEdge s).txq = [] := rfl
@[simp] theorem resetEdge_evtPos (s : State) : (resetEdge s).evtPos = 0 := rfl
@[simp] theorem resetEdge_rspq (s : State) : (resetEdge s).rspq = if Config.rstKeepsResponses then s.rspq else [] := rfl
@[simp] theorem resetEdge_offers (s : State) : (resetEdge s).offers = s.offers := rfl

@[simp] theorem takeResponse_stage (s : State) : (takeResponse s).stage = s.stage := rfl
@[simp] theorem takeResponse_len (s : State) : (takeResponse s).len = s.len := rfl
@[simp] theorem takeResponse_rcnt (s : State) : (takeResponse s).rcnt = s.rcnt := rfl
@[simp] theorem takeResponse_acc (s : State) : (takeResponse s).acc = s.acc := rfl
@[simp] theorem takeResponse_crcCalc (s : State) : (takeResponse s).crcCalc = s.crcCalc := rfl
@[simp] theorem takeResponse_crcRecv (s : State) : (takeResponse s).crcRecv = s.crcRecv := rfl
@[simp] theorem takeResponse_cfg (s : State) : (takeResponse s).cfg = s.cfg := rfl
@[simp] theorem takeResponse_flags (s : State) : (takeResponse s).flags = s.flags := rfl
@[simp] theorem takeResponse_txact (s : State) : (takeResponse s).txact = s.txact := rfl
@[simp] theorem takeResponse_txs (s : State) : (takeResponse s).txs = s.txs := rfl
@[simp] theorem takeResponse_bm (s : State) : (takeResponse s).bm = s.bm := rfl
@[simp] theorem takeResponse_evq (s : State) : (takeResponse s).evq = s.evq := rfl
@[simp] theorem takeResponse_txq (s : State) : (takeResponse s).txq = s.txq := rfl
@[simp] theorem takeResponse_evtPos (s : State) : (takeResponse s).evtPos = s.evtPos := rfl
@[simp] theorem takeResponse_rspq (s : State) : (takeResponse s).rspq = s.rspq.tail := rfl
@[simp] theorem takeResponse_offers (s : State) : (takeResponse s).offers = s.offers := rfl

@[simp] theorem takeTxByte_stage (s : State) : (takeTxByte s).stage = s.stage := rfl
@[simp] theorem takeTxByte_len (s : State) : (takeTxByte s).len = s.len := rfl
@[simp] theorem takeTxByte_rcnt (s : State) : (takeTxByte s).rcnt = s.rcnt := rfl
@[simp] theorem takeTxByte_acc (s : State) : (takeTxByte s).acc = s.acc := rfl
@[simp] theorem takeTxByte_crcCalc (s : State) : (takeTxByte s).crcCalc = s.crcCalc := rfl
@[simp] theorem takeTxByte_crcRecv (s : State) : (takeTxByte s).crcRecv = s.crcRecv := rfl
@[simp] theorem takeTxByte_cfg (s : State) : (takeTxByte s).cfg = s.cfg := rfl
@[simp] theorem takeTxByte_flags (s : State) : (takeTxByte s).flags = s.flags := rfl
@[simp] theorem takeTxByte_txact (s : State) : (takeTxByte s).txact = s.txact := rfl
@[simp] theorem takeTxByte_txs (s : State) : (takeTxByte s).txs = s.txs := rfl
@[simp] theorem takeTxByte_bm (s : State) : (takeTxByte s).bm = s.bm := rfl
@[simp] theorem takeTxByte_evq (s : State) : (takeTxByte s).evq = s.evq := rfl
@[simp] theorem takeTxByte_txq (s : State) : (takeTxByte s).txq = s.txq.tail := rfl
@[simp] theorem takeTxByte_evtPos (s : State) : (takeTxByte s).evtPos = s.evtPos := rfl
@[simp] theorem takeTxByte_rspq (s : State) : (takeTxByte s).rspq = s.rspq := rfl
@[simp] theorem takeTxByte_offers (s : State) : (takeTxByte s).offers = s.offers := rfl

@[simp] theorem offerWord_stage (s : State) (w : PortWord) : (offerWord s w).stage = s.stage := rfl
@[simp] theorem offerWord_len (s : State) (w : PortWord) : (offerWord s w).len = s.len := rfl
@[simp] theorem offerWord_rcnt (s : State) (w : PortWord) : (offerWord s w).rcnt = s.rcnt := rfl
@[simp] theorem offerWord_acc (s : State) (w : PortWord) : (offerWord s w).acc = s.acc := rfl
@[simp] theorem offerWord_crcCalc (s : State) (w : PortWord) : (offerWord s w).crcCalc = s.crcCalc := rfl
@[simp] theorem offerWord_crcRecv (s : State) (w : PortWord) : (offerWord s w).crcRecv = s.crcRecv := rfl
@[simp] theorem offerWord_cfg (s : State) (w : PortWord) : (offerWord s w).cfg = s.cfg := rfl
@[simp] theorem offerWord_flags (s : State) (w : PortWord) : (offerWord s w).flags = s.flags := rfl
@[simp] theorem offerWord_txact (s : State) (w : PortWord) : (offerWord s w).txact = s.txact := rfl
@[simp] theorem offerWord_txs (s : State) (w : PortWord) : (offerWord s w).txs = s.txs := rfl
@[simp] theorem offerWord_bm (s : State) (w : PortWord) : (offerWord s w).bm = s.bm := rfl
@[simp] theorem offerWord_evq (s : State) (w : PortWord) : (offerWord s w).evq = s.evq := rfl
@[simp] theorem offerWord_txq (s : State) (w : PortWord) : (offerWord s w).txq = s.txq := rfl
@[simp] theorem offerWord_evtPos (s : State) (w : PortWord) : (offerWord s w).evtPos = s.evtPos := rfl
@[simp] theorem offerWord_rspq (s : State) (w : PortWord) : (offerWord s w).rspq = s.rspq := rfl
@[simp] theorem offerWord_offers (s : State) (w : PortWord) : (offerWord s w).offers = .input w :: s.offers := rfl

end Sys2Proof.Machine
end

