-- ==== Sys2Proof/Laws/Feed.lean ====
section
/-! SUPPORT. What FEED can do, said once (spec 41_frame_decoder.md R163, R164; 43_screen_decoder.md R240). -/

namespace Sys2Proof.Machine

/-- The part of the state that reception never writes. -/
def outsideReception (s : State) : Cfg × Bool × List Byte × List Byte × Nat × List Response × List Offer :=
  (s.cfg, s.txact, s.txs, s.txq, s.evtPos, s.rspq, s.offers)

/-- What the screen decoder does (R240, R242): one event; a new bitmap or FMTERR; nothing else. -/
theorem screenDispatch_cases (args : List Byte) (s : State) :
    (screenFormatOk args = true ∧ screenDispatch args s =
      { s with bm := screenApply (args.getD 2 0) (args.drop 3) s.bm, evq := s.evq ++ [.bitmapChanged] }) ∨
    (screenFormatOk args = false ∧ screenDispatch args s =
      { s with flags := { s.flags with fmterr := true }, evq := s.evq ++ [.formatError] }) := by
  unfold screenDispatch
  cases h : screenFormatOk args
  · exact .inr ⟨rfl, rfl⟩
  · exact .inl ⟨rfl, rfl⟩

theorem outsideReception_screenDispatch (args : List Byte) (s : State) :
    outsideReception (screenDispatch args s) = outsideReception s := by
  rcases screenDispatch_cases args s with ⟨-, h⟩ | ⟨-, h⟩ <;> rw [h] <;> rfl

theorem outsideReception_complete (p : Params) (ok : Bool) (s : State) :
    outsideReception (complete p ok s) = outsideReception s := by
  unfold complete
  dsimp only
  split
  · rw [outsideReception_screenDispatch]
    rfl
  · rfl

@[simp] theorem outsideReception_toIdle (s : State) : outsideReception (toIdle s) = outsideReception s := rfl

/-- R363: FEED writes nothing of the transmit side, the configuration, the responses and the offers. -/
theorem outsideReception_feedByte (p : Params) (b : Byte) (s : State) :
    outsideReception (feedByte p b s) = outsideReception s := by
  unfold feedByte
  split
  · unfold feedIdle
    split
    · rfl
    · split <;> rfl
  · unfold feedSync2
    split <;> rfl
  · rfl
  · rfl
  · unfold feedLenhi
    dsimp only
    split
    · rfl
    · split <;> rfl
  · rfl
  · rfl
  · rfl
  · unfold feedFoot1
    split <;> rfl
  · unfold feedFoot2
    split
    · rfl
    · dsimp only
      split
      · rfl
      · split
        · rfl
        · rw [outsideReception_toIdle, outsideReception_complete]
          rfl

/-- The fields of `outsideReception`, one by one. -/
theorem feedByte_keeps (p : Params) (b : Byte) (s : State) :
    (feedByte p b s).cfg = s.cfg ∧ (feedByte p b s).txact = s.txact ∧ (feedByte p b s).txs = s.txs ∧
    (feedByte p b s).txq = s.txq ∧ (feedByte p b s).evtPos = s.evtPos ∧ (feedByte p b s).rspq = s.rspq ∧
    (feedByte p b s).offers = s.offers := by
  have h := outsideReception_feedByte p b s
  simp only [outsideReception, Prod.mk.injEq] at h
  exact h

@[simp] theorem feedBytes_nil (p : Params) (s : State) : feedBytes p [] s = s := rfl

@[simp] theorem feedBytes_cons (p : Params) (b : Byte) (bs : List Byte) (s : State) :
    feedBytes p (b :: bs) s = feedBytes p bs (feedByte p b s) := rfl

theorem feedBytes_append (p : Params) (bs cs : List Byte) (s : State) :
    feedBytes p (bs ++ cs) s = feedBytes p cs (feedBytes p bs s) := by
  simp [feedBytes, List.foldl_append]

/-- The state at FOOT2 as the completion sees it: the checksum report (R161). -/
def reported (s : State) : State :=
  { s with flags := { s.flags with crcerr := s.flags.crcerr || !decide (s.crcCalc = s.crcRecv) } }

/-- The four outcomes of FOOT2 (R161). -/
theorem feedFoot2_cases (p : Params) (b : Byte) (s : State) :
    (b ≠ 0xBA#8 ∧ feedFoot2 p b s = toIdle s) ∨
    (b = 0xBA#8 ∧ s.acc.length < 2 ∧
      feedFoot2 p b s = toIdle { reported s with flags := { (reported s).flags with short := true } }) ∨
    (b = 0xBA#8 ∧ 2 ≤ s.acc.length ∧ s.cfg.strict = true ∧ s.crcCalc ≠ s.crcRecv ∧
      feedFoot2 p b s = toIdle (reported s)) ∨
    (b = 0xBA#8 ∧ 2 ≤ s.acc.length ∧ (s.cfg.strict = false ∨ s.crcCalc = s.crcRecv) ∧
      feedFoot2 p b s = toIdle (complete p (decide (s.crcCalc = s.crcRecv)) (reported s))) := by
  by_cases hb : b = 0xBA#8
  · by_cases ha : s.acc.length < 2
    · refine .inr (.inl ⟨hb, ha, ?_⟩)
      simp [feedFoot2, hb, ha, reported]
    · by_cases hs : s.cfg.strict = true ∧ s.crcCalc ≠ s.crcRecv
      · refine .inr (.inr (.inl ⟨hb, by omega, hs.1, hs.2, ?_⟩))
        simp [feedFoot2, hb, ha, reported, hs.1, hs.2]
      · refine .inr (.inr (.inr ⟨hb, by omega, ?_, ?_⟩))
        · cases h : s.cfg.strict
          · exact .inl rfl
          · exact .inr (Classical.not_not.mp fun h' => hs ⟨h, h'⟩)
        · have : ¬ ((s.cfg.strict && !decide (s.crcCalc = s.crcRecv)) = true) := by simpa using hs
          simp only [feedFoot2, hb, ne_eq, not_true, if_false, ha, this, Bool.false_eq_true, reported]
  · exact .inl ⟨hb, by simp [feedFoot2, hb]⟩

end Sys2Proof.Machine
end

