-- ==== Sys2Proof/Laws/PerInstr.lean ====
section
/-! SUPPORT. Families of lemmas with one member per constructor of Instr. -/

namespace Sys2Proof.Laws

/-- R87, R90, R91: FEED goes to the receive port; every other transaction is a command word whose opcode byte is assigned
and whose reserved-zero bits are 0. -/
def PortForm.Statement (i : Instr) : Prop :=
  (∃ b, i = .feed b ∧ encode i = .rx b) ∨
  (∃ op o a, encode i = .cmd (cmdWord op a) ∧ opcodeOf op = some o ∧ a &&& reservedMask o = 0)

theorem PortForm.feed (b : Byte) : PortForm.Statement (.feed b) := .inl ⟨b, rfl, rfl⟩

theorem PortForm.nop : PortForm.Statement .nop := .inr ⟨0x00, .nop, 0, rfl, rfl, rfl⟩

theorem PortForm.prst : PortForm.Statement .prst := .inr ⟨0x01, .prst, 0, rfl, rfl, rfl⟩

theorem PortForm.srst : PortForm.Statement .srst := .inr ⟨0x02, .srst, 0, rfl, rfl, rfl⟩

theorem PortForm.rdreg (reg : Byte) : PortForm.Statement (.rdreg reg) :=
  .inr ⟨0x08, .rdreg, _, rfl, rfl, (fields8 reg).2⟩

theorem PortForm.wrreg (reg : Byte) (value : U16) : PortForm.Statement (.wrreg reg value) :=
  .inr ⟨0x09, .wrreg, _, rfl, rfl, (fields16_8 value reg).2.2⟩

theorem PortForm.txbegin (cmd : U16) : PortForm.Statement (.txbegin cmd) :=
  .inr ⟨0x10, .txbegin, _, rfl, rfl, (fields16 cmd).2⟩

theorem PortForm.txuint (v : Word) : PortForm.Statement (.txuint v) :=
  .inr ⟨0x11, .txuint, _, rfl, rfl, BitVec.and_zero⟩

theorem PortForm.txbyte (b : Byte) (ignored : BitVec 24) : PortForm.Statement (.txbyte b ignored) :=
  .inr ⟨0x12, .txbyte, _, rfl, rfl, BitVec.and_zero⟩

theorem PortForm.txend : PortForm.Statement .txend := .inr ⟨0x13, .txend, 0, rfl, rfl, rfl⟩

theorem PortForm.bmrd (col group : Byte) : PortForm.Statement (.bmrd col group) :=
  .inr ⟨0x20, .bmrd, _, rfl, rfl, (fields8_8 group col).2.2⟩

theorem PortForm.ciph (b : Byte) (pos : U16) : PortForm.Statement (.ciph b pos) :=
  .inr ⟨0x30, .ciph, _, rfl, rfl, (fields16_8 pos b).2.2⟩

theorem PortForm.crcu (b : Byte) (crc : U16) : PortForm.Statement (.crcu b crc) :=
  .inr ⟨0x31, .crcu, _, rfl, rfl, (fields16_8 crc b).2.2⟩

end Sys2Proof.Laws
end

