-- ==== Sys2Proof/Laws/Step.lean ====
section
/-! SUPPORT. What a transaction and a step can do, said once. -/

namespace Sys2Proof.Machine

/-- What an append can do (42_command_encoder.md R205). -/
theorem txAppend_cases (bs : List Byte) (s : State) :
    (s.txs.length + bs.length ≤ txMax ∧ txAppend bs s = respond 0 { s with txs := s.txs ++ bs }) ∨
    (txMax < s.txs.length + bs.length ∧ txAppend bs s =
      raise .txOverflow { s with txs := [], txact := false, flags := { s.flags with txovf := true } }) := by
  by_cases h : txMax < s.txs.length + bs.length
  · exact .inr ⟨h, by simp [txAppend, h]⟩
  · exact .inl ⟨by omega, by simp [txAppend, h]⟩

/-- What a transaction can do: the forms a next state can take, each with its cause. -/
theorem exec_cases {i : Instr} {s t : State} (h : exec i s = .next t) :
    (∃ b, i = .feed b ∧ t = feedByte Config.params b s) ∨
    (i = .prst ∧ t = respond 0 (toIdle s)) ∨
    (i = .srst ∧ t = respond 0 (resetElements s)) ∨
    (∃ value, i = .wrreg 0x00 value ∧ t = respond 0 { s with flags := s.flags.clearBy value }) ∨
    (∃ value, i = .wrreg 0x01 value ∧ t = respond 0 { s with cfg := cfgOfValue value }) ∨
    (∃ cmd, i = .txbegin cmd ∧ t = respond 0 { s with txs := bytesOf16 cmd, txact := true }) ∨
    (∃ bs, s.txact = true ∧ t = txAppend bs s ∧
      ((∃ v, i = .txuint v ∧ bs = serUint v) ∨ ∃ b x, i = .txbyte b x ∧ bs = [b])) ∨
    (i = .txend ∧ s.txact = true ∧ t = respond (BitVec.ofNat 32 (encodeFrame s.txs).length)
      { send (encodeFrame s.txs) s with txs := [], txact := false }) ∨
    (s.txact = false ∧ t = raise .txNotActive s ∧ ((∃ v, i = .txuint v) ∨ (∃ b x, i = .txbyte b x) ∨ i = .txend)) ∨
    (i.wellFormed = false ∧ t = raise .badOperand s) ∨
    ((∃ v, t = respond v s) ∧
      (i = .nop ∨ (∃ r, i = .rdreg r) ∨ (∃ c g, i = .bmrd c g) ∨ (∃ b q, i = .ciph b q) ∨ ∃ b c, i = .crcu b c)) := by
  cases i with
  | feed b =>
    cases h
    exact .inl ⟨b, rfl, rfl⟩
  | nop =>
    cases h
    simp
    exact .inr ⟨_, rfl⟩
  | prst =>
    cases h
    simp
  | srst =>
    cases h
    simp
  | rdreg reg =>
    simp only [exec, execRdreg] at h
    cases h
    cases hr : regOf reg with
    | none =>
      have : regAssigned reg = false := by
        revert reg
        decide
      simp [Instr.wellFormed, this]
    | some r =>
      simp
      exact .inr ⟨_, rfl⟩
  | wrreg reg value =>
    simp only [exec, execWrreg] at h
    cases h
    by_cases h0 : reg = 0x00
    · subst h0
      exact .inr (.inr (.inr (.inl ⟨value, rfl, rfl⟩)))
    · by_cases h1 : reg = 0x01
      · subst h1
        exact .inr (.inr (.inr (.inr (.inl ⟨value, rfl, rfl⟩))))
      · have hw : regWritable reg = false := by
          revert reg
          decide
        have hs : regOf reg ≠ some .status ∧ regOf reg ≠ some .cfg := by
          revert reg
          decide
        refine .inr (.inr (.inr (.inr (.inr (.inr (.inr (.inr (.inr (.inl ⟨hw, ?_⟩)))))))))
        split <;> simp_all
  | txbegin cmd =>
    cases h
    simp
  | txuint v =>
    simp only [exec, execTxuint] at h
    cases h
    cases ha : s.txact <;> simp
  | txbyte b x =>
    simp only [exec, execTxbyte] at h
    cases h
    cases ha : s.txact <;> simp
  | txend =>
    simp only [exec, execTxend] at h
    cases h
    cases ha : s.txact <;> simp
  | bmrd col group =>
    simp only [exec, execBmrd] at h
    cases h
    by_cases hc : 128 ≤ col.toNat ∨ 8 ≤ group.toNat
    · have : columnByteExists col group = false := by
        simp [columnByteExists]
        omega
      simp [Instr.wellFormed, this, hc]
    · simp [hc]
      exact .inr ⟨_, rfl⟩
  | ciph b pos =>
    cases h
    simp
    exact .inr ⟨_, rfl⟩
  | crcu b crc =>
    cases h
    simp
    exact .inr ⟨_, rfl⟩

/-- What a step can do: nothing is offered, or the first offer is used up and has its effect. -/
theorem step_cases {s t : State} (h : step s = .next t) :
    (s.offers = [] ∧ t = s) ∨
    ∃ o rest, s.offers = o :: rest ∧
      ((∃ w i, o = .input w ∧ decode w = .ok i ∧ exec i { s with offers := rest } = .next t) ∨
       (∃ w e, o = .input w ∧ decode w = .error e ∧ t = raise e { s with offers := rest }) ∨
       (o = .rspReady ∧ t = takeResponse { s with offers := rest }) ∨
       (o = .evtReady ∧ t = takeEventByte { s with offers := rest }) ∨
       (o = .txReady ∧ t = takeTxByte { s with offers := rest }) ∨
       (o = .rst ∧ t = resetEdge { s with offers := rest })) := by
  cases ho : s.offers with
  | nil =>
    simp only [step, nextOffer, ho] at h
    cases h
    exact .inl ⟨rfl, rfl⟩
  | cons o rest =>
    refine .inr ⟨o, rest, rfl, ?_⟩
    simp only [step, nextOffer, ho] at h
    cases o with
    | input w =>
      cases hd : decode w with
      | ok i =>
        simp only [hd] at h
        exact .inl ⟨w, i, rfl, hd, h⟩
      | error e =>
        simp only [hd] at h
        cases h
        exact .inr (.inl ⟨w, e, rfl, hd, rfl⟩)
    | rspReady =>
      cases h
      simp
    | evtReady =>
      cases h
      simp
    | txReady =>
      cases h
      simp
    | rst =>
      cases h
      simp

/-- A refused command word is refused with code 1 or 2 (60_exceptions.md R313). -/
theorem decode_error {w : PortWord} {e : CmdError} (h : decode w = .error e) :
    e = .illegalOpcode ∨ e = .badOperand := by
  cases w with
  | rx b => cases h
  | cmd w =>
    simp only [decode, decodeCmd] at h
    split at h
    · cases h
      exact .inl rfl
    · split at h
      · cases h
      · cases h
        exact .inr rfl

/-- What taking an event byte can do (30_encoding.md R100). -/
theorem takeEventByte_cases (s : State) :
    (s.evq = [] ∧ takeEventByte s = s) ∨
    ∃ e rest, s.evq = e :: rest ∧
      ((s.evtPos + 1 < e.record.length ∧ takeEventByte s = { s with evtPos := s.evtPos + 1 }) ∨
       (e.record.length ≤ s.evtPos + 1 ∧ takeEventByte s = { s with evq := rest, evtPos := 0 })) := by
  unfold takeEventByte
  cases h : s.evq with
  | nil => exact .inl ⟨rfl, rfl⟩
  | cons e rest =>
    refine .inr ⟨e, rest, rfl, ?_⟩
    by_cases hp : s.evtPos + 1 < e.record.length
    · exact .inl ⟨hp, by simp [hp]⟩
    · exact .inr ⟨by omega, by simp [hp]⟩

end Sys2Proof.Machine
end

