-- ==== Sys2Proof/Tests/Slice0.lean ====
section
/-! SUPPORT. Tests on fixed values, their expected results taken from spec/ (95_test_vectors.md where no other file is
named), and for every statement with hypotheses a concrete state and operands that meet them. -/

namespace Sys2Proof.Tests

open Sys2Proof.Machine Sys2Proof.Claims

set_option maxRecDepth 4000

/-! ### Helpers -/

/-- The reset state with its decoder in the given stage. -/
def inStage (st : Stage) : State := { State.reset with stage := st }

/-- The reset state with the given offers. -/
def offering (os : List Offer) : State := { State.reset with offers := os }

/-- The reset state with the given staged payload. -/
def staged (bs : List Byte) : State := { State.reset with txact := true, txs := bs }

/-- The test-only parameters of 95_test_vectors.md. -/
def testParams : Params := { altSyncByte := some 0x5A, screenCmdId := 0x0803, maxPayload := 65535 }

/-- The frame of V-RX-1 (KeyPress 19). -/
def keyPressFrame : List Byte := [0xAB, 0xCD, 0x03, 0x00, 0x17, 0x64, 0x07, 0x2D, 0xB2, 0xDC, 0xBA]

/-- The decoder of V-RX-1 before the last byte of its frame. -/
def beforeFooter : State :=
  { State.reset with
    stage := .foot2, len := 3, rcnt := 3, acc := [0x01, 0x08, 0x13], crcCalc := 0x9CCB, crcRecv := 0x9CCB }

/-- `n` zero bytes. -/
def zeros (n : Nat) : List Byte := List.replicate n 0

theorem length_zeros (n : Nat) : (zeros n).length = n := List.length_replicate

/-- A text as the assembler reads it. -/
def text (t : String) : List Char := t.toList

/-! ### WellFormed: one ill-formed term for each check (R311) -/

theorem test_wf_refuses_unassigned_register : (Instr.rdreg 0x07).wellFormed = false := by decide

theorem test_wf_refuses_read_only_register : (Instr.wrreg 0x02 0x0001).wellFormed = false := by decide

theorem test_wf_refuses_column_128 : (Instr.bmrd 128 0).wellFormed = false := by decide

theorem test_wf_refuses_group_8 : (Instr.bmrd 0 8).wellFormed = false := by decide

theorem test_wf_accepts_the_last_column_byte : (Instr.bmrd 127 7).wellFormed = true := by decide

/-! ### Decoding: for every constructor a word written out from R89 to R91 -/

theorem test_decode_feed : decode (.rx 0b10101011#8) = .ok (.feed 0xAB) := by rfl

theorem test_decode_nop :
    decode (.cmd (0b00000000#8 ++ 0b00000000#8 ++ 0b00000000#8 ++ 0b00000000#8 ++ 0b00000000#8)) = .ok .nop := by rfl

theorem test_decode_prst :
    decode (.cmd (0b00000001#8 ++ 0b00000000#8 ++ 0b00000000#8 ++ 0b00000000#8 ++ 0b00000000#8)) = .ok .prst := by rfl

theorem test_decode_srst :
    decode (.cmd (0b00000010#8 ++ 0b00000000#8 ++ 0b00000000#8 ++ 0b00000000#8 ++ 0b00000000#8)) = .ok .srst := by rfl

theorem test_decode_rdreg :
    decode (.cmd (0b00001000#8 ++ 0b00000000#8 ++ 0b00000000#8 ++ 0b00000000#8 ++ 0b00010011#8)) =
      .ok (.rdreg 0x13) := by rfl

theorem test_decode_wrreg :
    decode (.cmd (0b00001001#8 ++ 0b00000000#8 ++ 0b01111111#8 ++ 0b00000011#8 ++ 0b00000001#8)) =
      .ok (.wrreg 0x01 0x7F03) := by rfl

theorem test_decode_txbegin :
    decode (.cmd (0b00010000#8 ++ 0b00000000#8 ++ 0b00000000#8 ++ 0b00001000#8 ++ 0b00000001#8)) =
      .ok (.txbegin 0x0801) := by rfl

theorem test_decode_txuint :
    decode (.cmd (0b00010001#8 ++ 0b01100100#8 ++ 0b01010111#8 ++ 0b00111001#8 ++ 0b01101010#8)) =
      .ok (.txuint 0x6457396A) := by rfl

theorem test_decode_txbyte :
    decode (.cmd (0b00010010#8 ++ 0b00000000#8 ++ 0b00000000#8 ++ 0b00000001#8 ++ 0b00010011#8)) =
      .ok (.txbyte 0x13 0x000001) := by rfl

theorem test_decode_txend :
    decode (.cmd (0b00010011#8 ++ 0b00000000#8 ++ 0b00000000#8 ++ 0b00000000#8 ++ 0b00000000#8)) = .ok .txend := by rfl

theorem test_decode_bmrd :
    decode (.cmd (0b00100000#8 ++ 0b00000000#8 ++ 0b00000000#8 ++ 0b00000111#8 ++ 0b01111111#8)) =
      .ok (.bmrd 127 7) := by rfl

theorem test_decode_ciph :
    decode (.cmd (0b00110000#8 ++ 0b00000000#8 ++ 0b00010000#8 ++ 0b00000001#8 ++ 0b10101011#8)) =
      .ok (.ciph 0xAB 0x1001) := by rfl

theorem test_decode_crcu :
    decode (.cmd (0b00110001#8 ++ 0b00000000#8 ++ 0b00010010#8 ++ 0b00110100#8 ++ 0b00010011#8)) =
      .ok (.crcu 0x13 0x1234) := by rfl

/-- R92, R93: the first unassigned opcode after each block, and the lowest reserved bit of WRREG. -/
theorem test_decode_refuses :
    decode (.cmd 0x0300000000) = .error .illegalOpcode ∧ decode (.cmd 0x3200000000) = .error .illegalOpcode ∧
    decode (.cmd 0xFFFFFFFFFF) = .error .illegalOpcode ∧ decode (.cmd 0x0901000000) = .error .badOperand := by
  refine ⟨?_, ?_, ?_, ?_⟩ <;> rfl

/-- A table word is the command word itself; the row FEED has 8 bits. -/
theorem test_table_words :
    decodeTableWord 8 0xAB = some (.feed 0xAB) ∧ decodeTableWord 40 0x2000000305 = some (.bmrd 5 3) ∧
    decodeTableWord 40 0x0800000100 = none := by
  refine ⟨?_, ?_, ?_⟩ <;> rfl

/-- `withFetchWord` puts the word where the very next step takes it. -/
theorem test_fetch_word_runs_next :
    step (State.reset.withFetchWord 40 0x1000000801) =
      .next { staged [0x01, 0x08] with rspq := [okRsp 0] } := by rfl

/-! ### One step of each instruction -/

/-- V-RX-1, first byte. -/
theorem test_feed_sync : exec (.feed 0xAB) State.reset = .next (inStage .sync2) := by rfl

/-- R157, its example: `FEED 0x17` at position 0 of a payload of 3 bytes. -/
theorem test_feed_payload :
    exec (.feed 0x17) { inStage .payload with len := 3 } =
      .next { inStage .payload with len := 3, rcnt := 1, acc := [0x01], crcCalc := 0x1021 } := by rfl

/-- R94: the all-zero command word is NOP. -/
theorem test_nop : step (offering [.input (.cmd 0)]) = .next { State.reset with rspq := [okRsp 0] } := by rfl

/-- R281, its example: ALT is left and ALTSEEN stays. -/
theorem test_prst_leaves_alt :
    exec .prst { inStage .alt with flags := { Flags.reset with altseen := true } } =
      .next { State.reset with flags := { Flags.reset with altseen := true }, rspq := [okRsp 0] } := by rfl

/-- R283: the staged frame, the flags and CFG are gone, the response comes. -/
theorem test_srst :
    exec .srst { staged [0x01, 0x08] with
      cfg := { strict := true, irqen := true }, flags := { Flags.reset with crcerr := true } } =
      .next { State.reset with rspq := [okRsp 0] } := by rfl

/-- R282, its example: `RDREG 0x13` returns `KEY[3]`. -/
theorem test_rdreg_key : exec (.rdreg 0x13) State.reset = .next { State.reset with rspq := [okRsp 0xE6] } := by rfl

/-- V-ENC-19's STATUS, 0x12000: TXACT and CMDERR. -/
theorem test_rdreg_status :
    exec (.rdreg 0x00) { staged [0x01, 0x08] with flags := { Flags.reset with cmderr := true } } =
      .next { staged [0x01, 0x08] with
        flags := { Flags.reset with cmderr := true }, rspq := [okRsp 0x12000] } := by rfl

/-- R284, its example: `WRREG STATUS, 0x0200` clears CRCERR and no other flag. -/
theorem test_wrreg_clears_one_flag :
    exec (.wrreg 0x00 0x0200) { State.reset with flags := { Flags.reset with crcerr := true, short := true } } =
      .next { State.reset with flags := { Flags.reset with short := true }, rspq := [okRsp 0] } := by rfl

/-- R284: bits 2 to 15 of a write to CFG are ignored. -/
theorem test_wrreg_cfg :
    exec (.wrreg 0x01 0xFFFD) State.reset =
      .next { State.reset with cfg := { strict := true, irqen := false }, rspq := [okRsp 0] } := by rfl

/-- R202, its example. -/
theorem test_txbegin :
    exec (.txbegin 0x0801) State.reset = .next { staged [0x01, 0x08] with rspq := [okRsp 0] } := by rfl

/-- V-SER-6: never 3 bytes. -/
theorem test_txuint_four_bytes :
    exec (.txuint 0xFFFFFF) (staged [0x01, 0x08]) =
      .next { staged [0x01, 0x08, 0xFF, 0xFF, 0xFF, 0x00] with rspq := [okRsp 0] } := by rfl

/-- V-ENC-17: nothing is staged. -/
theorem test_txuint_not_active :
    exec (.txuint 5) State.reset =
      .next { State.reset with flags := { Flags.reset with cmderr := true }, rspq := [errRsp 3] } := by rfl

/-- V-ENC-11: `A[31:8]` is ignored. -/
theorem test_txbyte :
    exec (.txbyte 0x13 0x000001) (staged [0x01, 0x08]) =
      .next { staged [0x01, 0x08, 0x13] with rspq := [okRsp 0] } := by rfl

/-- V-ENC-10: the frame of S-1 and its length. -/
theorem test_txend :
    exec .txend (staged [0x01, 0x08, 0x13]) =
      .next { State.reset with txq := keyPressFrame, rspq := [okRsp 11] } := by rfl

/-- S-2 and R250: the column byte of pixel (0, 0). -/
theorem test_bmrd :
    exec (.bmrd 0 0) { State.reset with bm := screenApply 0 [0x01, 0x00, 0x00] Bitmap.zero } =
      .next { State.reset with
        bm := screenApply 0 [0x01, 0x00, 0x00] Bitmap.zero, rspq := [okRsp 0x01] } := by rfl

/-- R250: column 128 does not exist. -/
theorem test_bmrd_out_of_range :
    exec (.bmrd 128 0) State.reset =
      .next { State.reset with flags := { Flags.reset with cmderr := true }, rspq := [errRsp 2] } := by rfl

/-- V-CIPH-7: position 0xFFFF uses `KEY[15]`. -/
theorem test_ciph : exec (.ciph 0x00 0xFFFF) State.reset = .next { State.reset with rspq := [okRsp 0x80] } := by rfl

/-- V-CRC-7. -/
theorem test_crcu : exec (.crcu 0x13 0x1234) State.reset = .next { State.reset with rspq := [okRsp 0x2421] } := by rfl

/-! ### Vectors over a few bytes -/

/-- V-RX-1: the end state. -/
theorem test_receives_key_press :
    feedBytes testParams keyPressFrame State.reset =
      { State.reset with
        crcCalc := 0x9CCB, crcRecv := 0x9CCB, evq := [.frame 0x0801 [0x13] 0x9CCB 0x9CCB true] } := by rfl

/-- V-RX-1: the record. -/
theorem test_event_record :
    Event.record (.frame 0x0801 [0x13] 0x9CCB 0x9CCB true) =
      [0x01, 0x01, 0x08, 0x01, 0x00, 0x13, 0xCB, 0x9C, 0xCB, 0x9C, 0x01] := by rfl

/-- V-RX-5: `AB AB CD` does not synchronise. -/
theorem test_no_resync_on_second_sync :
    (feedBytes testParams [0xAB, 0xAB, 0xCD] State.reset).stage = .idle := by rfl

/-- V-CRC-4, V-CRC-8. -/
theorem test_crc_update : crcUpdate 0x80 0x0000 = 0x9188 ∧ crcUpdate 0xAB 0xCDEF = 0xE360 := by decide

/-- V-ENC-7: a payload that ciphers to the sync byte. -/
theorem test_encode_frame :
    encodeFrame [0x01, 0x08, 0xBF] = [0xAB, 0xCD, 0x03, 0x00, 0x17, 0x64, 0xAB, 0x4B, 0xC6, 0xDC, 0xBA] := by decide

/-- R249: row group 32 is out of range, not row 0. -/
theorem test_row_base_does_not_wrap : applyTriplet Bitmap.zero 0xFF 0 32 = Bitmap.zero := by decide

/-- R106, R107: S-1 as one line of text. -/
theorem test_send_text :
    assembleText (text "SEND 0x0801, 19 ; KeyPress") = some [.txbegin 0x0801, .txuint 19, .txend] := by rfl

/-- Log entry 15: a KEY name with leading zeros, and FEEDS of no byte. -/
theorem test_lexical_choices :
    assembleText (text "RDREG KEY007") = some [.rdreg 0x17] ∧ assembleText (text "FEEDS") = some [] := by
  exact ⟨rfl, rfl⟩

/-- R106: "An operand that does not fit its field is an assembly error". -/
theorem test_oversized_operand_text : assembleText (text "WRREG CFG, 0x10000") = none := by rfl

/-! ### Witnesses: the hypotheses of the statements can be met, each clause at a boundary of its range -/

theorem test_witness_EncodeOfDecode : decode (.cmd 0x200000077F) = .ok (.bmrd 127 7) := by rfl

theorem test_witness_UnassignedOpcodeRefused :
    (offering [.input (wordOf 0x03 0)]).offers = .input (wordOf 0x03 0) :: [] ∧
    ∀ op ∈ ([0x03, 0x07, 0x0A, 0x0F, 0x14, 0x1F, 0x21, 0x2F, 0x32, 0xFF] : List Byte),
      (0x03 ≤ op.toNat ∧ op.toNat ≤ 0x07) ∨ (0x0A ≤ op.toNat ∧ op.toNat ≤ 0x0F) ∨
        (0x14 ≤ op.toNat ∧ op.toNat ≤ 0x1F) ∨ (0x21 ≤ op.toNat ∧ op.toNat ≤ 0x2F) ∨ 0x32 ≤ op.toNat := by
  decide

theorem test_witness_ReservedBitsRefused :
    ((0x30, 0xFF000000) : Byte × Word) ∈ reservedColumn ∧ (0x01000000 : Word) &&& 0xFF000000 ≠ 0 ∧
    (offering [.input (wordOf 0x30 0x01000000)]).offers = .input (wordOf 0x30 0x01000000) :: [] := by
  decide

theorem test_witness_StepRunsDecodedInstruction :
    (offering [.input (.cmd 0x1300000000)]).offers = .input (.cmd 0x1300000000) :: [] ∧
    decode (.cmd 0x1300000000) = .ok .txend := by
  exact ⟨rfl, rfl⟩

theorem test_witness_StepUsesUpOneOffer :
    State.reset.offers = [] ∧ step (offering [.txReady, .rst]) = .next (offering [.rst]) := by
  exact ⟨rfl, rfl⟩

theorem test_witness_PrstResetsDecoderOnly :
    State.reset.stage = .idle ∧ State.reset.len = 0 ∧ State.reset.rcnt = 0 ∧ State.reset.acc = [] := by
  decide

theorem test_witness_RdregReturnsRegister :
    (staged (zeros 65535)).txs.length ≤ 65535 ∧ (0 < 16 ∧ 15 < 16) ∧
    ∀ reg ∈ ([0x07, 0x0F, 0x20, 0xFF] : List Byte), (0x07 ≤ reg.toNat ∧ reg.toNat ≤ 0x0F) ∨ 0x20 ≤ reg.toNat := by
  exact ⟨(length_zeros 65535).le, by decide, by decide⟩

theorem test_witness_WrregWritesStatusOrCfg : 0x02 ≤ (0x02 : Byte).toNat ∧ 0x02 ≤ (0xFF : Byte).toNat := by decide

theorem test_witness_TxuintAppends :
    State.reset.txact = false ∧
    (let s := staged (zeros 65531)
     s.txact = true ∧ s.txs.length + (serUint 0x10000).length ≤ 65535) ∧
    (let s := staged (zeros 65532)
     s.txact = true ∧ 65535 < s.txs.length + (serUint 0x10000).length) := by
  have h : (serUint 65536#32).length = 4 := by decide
  simp [staged, State.reset, h, length_zeros]

theorem test_witness_TxbyteAppends :
    State.reset.txact = false ∧
    (let s := staged (zeros 65534)
     s.txact = true ∧ s.txs.length < 65535) ∧
    (let s := staged (zeros 65535)
     s.txact = true ∧ 65535 ≤ s.txs.length) := by
  simp [staged, State.reset, length_zeros]

theorem test_witness_TxendQueuesFrame : State.reset.txact = false ∧ (staged [0x01, 0x08]).txact = true := by decide

theorem test_witness_WireFrameLayout :
    ([] : List Byte).length ≤ 65535 ∧ (zeros 65535).length ≤ 65535 ∧ 65534 < 65535 := by
  simp [length_zeros]

theorem test_witness_FeedInIdle :
    State.reset.stage = .idle ∧ testParams.Legal ∧ testParams.altSyncByte = some 0x5A ∧ (0x5B : Byte) ≠ 0xAB ∧
    testParams.altSyncByte ≠ some 0x5B := by
  decide

theorem test_witness_FeedInSync2 : (inStage .sync2).stage = .sync2 ∧ (0xAB : Byte) ≠ 0xCD := by decide

theorem test_witness_AltAbsorbsUntilReset :
    (inStage .alt).stage = .alt ∧
    (let s := { inStage .alt with offers := [.input (.cmd 0x0100000000)] }
     step s = .next (answered 0 State.reset) ∧ (answered 0 State.reset).stage ≠ .alt ∧ NextIs s .prst) := by
  exact ⟨rfl, rfl, by decide, _, _, rfl, rfl⟩

theorem test_witness_FeedInLenlo : (inStage .lenlo).stage = .lenlo := by decide

/-- The accepted length at `MAX_PAYLOAD` itself, one above it, and 0. -/
theorem test_witness_FeedInLenhi :
    (inStage .lenhi).stage = .lenhi ∧
    (let s := { inStage .lenhi with len := 0x00FF }
     let len' : U16 := s.len ||| ((0x01 : Byte).setWidth 16 <<< 8)
     s.stage = .lenhi ∧ 0x01FE < len'.toNat ∧ len' ≠ 0 ∧ len'.toNat ≤ 0x01FF) ∧
    ((inStage .lenhi).len ||| ((0x00 : Byte).setWidth 16 <<< 8) = 0) := by
  decide

theorem test_witness_FeedInPayload : (inStage .payload).stage = .payload := by decide

theorem test_witness_FeedInChecksumStages :
    (inStage .cklo).stage = .cklo ∧ ({ inStage .ckhi with len := 65535 } : State).stage = .ckhi := by
  decide

theorem test_witness_FeedInFoot1 : (inStage .foot1).stage = .foot1 ∧ (0xAB : Byte) ≠ 0xDC := by decide

/-- A payload of 1 byte, and in strict mode a payload of 2 bytes with a wrong checksum. -/
theorem test_witness_FeedInFoot2Drops :
    (inStage .foot2).stage = .foot2 ∧ (0xAB : Byte) ≠ 0xBA ∧
    (let s := { inStage .foot2 with len := 1, rcnt := 1, acc := [0x01] }
     s.stage = .foot2 ∧ s.acc.length < 2) ∧
    (let s := { inStage .foot2 with
                len := 2, rcnt := 2, acc := [0x01, 0x08], crcCalc := 1, cfg := { strict := true, irqen := false } }
     s.stage = .foot2 ∧ 2 ≤ s.acc.length ∧ s.cfg.strict = true ∧ s.crcCalc ≠ s.crcRecv) := by
  decide

/-- A mismatch in the default mode, and a match in strict mode. -/
theorem test_witness_FeedInFoot2Completes :
    (let s := { beforeFooter with crcRecv := 0 }
     s.stage = .foot2 ∧ 2 ≤ s.acc.length ∧ s.crcCalc ≠ s.crcRecv ∧ (s.cfg.strict = false ∨ s.crcCalc = s.crcRecv)) ∧
    (let s := { beforeFooter with cfg := { strict := true, irqen := false } }
     s.stage = .foot2 ∧ 2 ≤ s.acc.length ∧ (s.cfg.strict = false ∨ s.crcCalc = s.crcRecv)) := by
  decide

/-- The shortest payload under the smallest legal `MAX_PAYLOAD`, and the longest of all. -/
theorem test_witness_FrameRoundTrip :
    (let p : Params := { testParams with maxPayload := 2 }
     let P : List Byte := [0x03, 0x08]
     p.Legal ∧ 2 ≤ P.length ∧ P.length ≤ p.maxPayload ∧ State.reset.stage = .idle ∧ commandOf P = p.screenCmdId) ∧
    (let P : List Byte := zeros 65535
     testParams.Legal ∧ 2 ≤ P.length ∧ P.length ≤ testParams.maxPayload ∧ commandOf P ≠ testParams.screenCmdId) := by
  exact ⟨by decide, by decide, by simp [length_zeros], (length_zeros 65535).le, by decide⟩

/-- V-RX-2. -/
theorem test_witness_GarbageWithoutSyncIsDropped :
    testParams.Legal ∧ State.reset.stage = .idle ∧
    (∀ b ∈ ([0x00, 0x11, 0xDC, 0xBA, 0xCD] : List Byte), b ≠ 0xAB ∧ testParams.altSyncByte ≠ some b) ∧
    2 ≤ ([0x01, 0x08, 0x13] : List Byte).length ∧ ([0x01, 0x08, 0x13] : List Byte).length ≤ testParams.maxPayload := by
  decide

theorem test_witness_ResyncWithin65542Bytes :
    (let s := inStage .sync2
     DecoderInv s ∧ s.stage ≠ .idle ∧ s.stage ≠ .alt) ∧
    (let s := { inStage .payload with len := 65535 }
     DecoderInv s ∧ s.stage ≠ .idle ∧ s.stage ≠ .alt) ∧
    65542 ≤ (zeros 65542).length := by
  exact ⟨by decide, by decide, (length_zeros 65542).ge⟩

theorem test_witness_TripletWritesItsGroup :
    (63 < 64 ∧ 127 < 128) ∧ (127 = (127 : Byte).toNat ∧ 63 / 8 = (7 : Byte).toNat) := by
  decide

/-- Column 6 is named by no triplet of `[FF 05 02]`; the empty list names none. -/
theorem test_witness_TripletsLastWriterWins :
    ((1 : Byte) ≠ 0 ∧ 16 < 64 ∧ 6 < 128 ∧ ¬ NamesGroup [0xFF, 5, 2] 6 (16 / 8)) ∧
    (16 < 64 ∧ 5 < 128 ∧ ([] : List Byte).length % 3 = 0 ∧ (5 : Byte).toNat = 5 ∧ (2 : Byte).toNat = 16 / 8 ∧
      ¬ NamesGroup [0xFF, 6, 2] 5 (16 / 8)) := by
  refine ⟨⟨by decide, by decide, by decide, ?_⟩, by decide, by decide, by decide, by decide, by decide, ?_⟩
  all_goals
    rintro ⟨t, ht, hc, -⟩
    obtain rfl : t = 0 := by simp at ht; omega
    revert hc
    decide

theorem test_witness_FullUpdateForgetsBitmap :
    (0 < 64 ∧ 0 < 128 ∧ ¬ NamesGroup [] 0 (0 / 8)) ∧ ((1 : Byte) ≠ 0 ∧ (255 : Byte) ≠ 0) := by
  refine ⟨⟨by decide, by decide, ?_⟩, by decide⟩
  rintro ⟨t, ht, -⟩
  simp at ht

/-- No triplet; args of 2 bytes, of 4 bytes. -/
theorem test_witness_ScreenDispatchChecksFormat :
    ([] : List Byte).length % 3 = 0 ∧
    (∀ args ∈ ([[], [0, 0], [0, 0, 0, 1]] : List (List Byte)), args.length < 3 ∨ args.length % 3 ≠ 0) := by
  decide

theorem test_witness_BmrdAnswersColumnByte :
    ((127 : Byte).toNat < 128 ∧ (7 : Byte).toNat < 8) ∧ (128 ≤ (128 : Byte).toNat ∨ 8 ≤ (0 : Byte).toNat) ∧
    (128 ≤ (0 : Byte).toNat ∨ 8 ≤ (8 : Byte).toNat) := by
  decide

theorem test_witness_BmrdReturnsTripletMask :
    let s := { State.reset with bm := screenApply 0 ([] ++ [0x01, 0, 0] ++ []) Bitmap.zero }
    (0 : Byte).toNat < 128 ∧ (0 : Byte).toNat < 8 ∧ ([] : List Byte).length % 3 = 0 ∧
    ¬ NamesGroup [] (0 : Byte).toNat (0 : Byte).toNat ∧
    s.bm = screenApply 0 ([] ++ [0x01, 0, 0] ++ []) Bitmap.zero ∧
    exec (.bmrd 0 0) s = .next (answered ((0x01 : Byte).setWidth 32) s) := by
  refine ⟨by decide, by decide, by decide, ?_, rfl, rfl⟩
  rintro ⟨t, ht, -⟩
  simp at ht

theorem test_witness_EventRecordLayout :
    ([] : List Byte).length ≤ 65533 ∧ (zeros 65533).length ≤ 65533 ∧
    (true = decide ((1 : U16) = 1)) := by
  simp [length_zeros]

theorem test_witness_EventRecordIsSentInOrder :
    let e := Event.frame 0x0801 [0x13] 0x9CCB 0x9CCB true
    let s := { State.reset with evq := [e, .bitmapChanged] }
    s.evq = e :: [.bitmapChanged] ∧ s.evtPos = 0 ∧ 10 < e.record.length := by
  decide

theorem test_witness_OutputPortsDrainOnly :
    ((offering [.evtReady]).offers = .evtReady :: [] ∧ (offering [.evtReady]).evq = []) ∧
    (let e := Event.frame 0x0801 [0x13] 0x9CCB 0x9CCB true
     let s := { offering [.evtReady] with evq := [e, .bitmapChanged], evtPos := 9 }
     s.offers = .evtReady :: [] ∧ s.evq = e :: [.bitmapChanged] ∧ s.evtPos + 1 < e.record.length) ∧
    (let e := Event.frame 0x0801 [0x13] 0x9CCB 0x9CCB true
     let s := { offering [.evtReady] with evq := [e, .bitmapChanged], evtPos := 10 }
     s.offers = .evtReady :: [] ∧ s.evq = e :: [.bitmapChanged] ∧ e.record.length ≤ s.evtPos + 1) ∧
    (let s := { offering [.txReady] with txq := [0xAB] }
     s.offers = .txReady :: [] ∧ s.txq = 0xAB :: []) ∧
    ((offering [.txReady]).offers = .txReady :: [] ∧ (offering [.txReady]).txq = []) ∧
    (let s := { offering [.rspReady] with rspq := [okRsp 11] }
     s.offers = .rspReady :: [] ∧ s.rspq = okRsp 11 :: []) ∧
    ((offering [.rspReady]).offers = .rspReady :: [] ∧ (offering [.rspReady]).rspq = []) := by
  decide

/-- A machine at FOOT2 with a good screen frame of the given args, whatever its parameters are. -/
def screenFrame (args : List Byte) : State :=
  { inStage .foot2 with
    len := BitVec.ofNat 16 (args.length + 2), rcnt := BitVec.ofNat 16 (args.length + 2)
    acc := bytesOf16 Config.params.screenCmdId ++ args, offers := [.input (.rx 0xBA)]
    cfg := { strict := false, irqen := true } }

/-- What that frame does: FRAME, then the screen decoder (R162, R240). -/
def afterScreenFrame (args : List Byte) : State :=
  toIdle (screenDispatch args
    (emit (.frame Config.params.screenCmdId args 0 0 true) { screenFrame args with offers := [] }))

theorem commandOf_screenFrame (args : List Byte) : commandOf (screenFrame args).acc = Config.params.screenCmdId := by
  simp only [screenFrame, commandOf, bytesOf16, lowByte, highByte, List.cons_append, List.getD_cons_zero,
    List.getD_cons_succ]
  ext i hi
  simp
  by_cases h : i < 8
  · simp [h, hi]
  · have : i - 8 < 8 := by omega
    simp [h, hi, this, show 8 + (i - 8) = i by omega]

theorem step_screenFrame (args : List Byte) : step (screenFrame args) = .next (afterScreenFrame args) := by
  have h := commandOf_screenFrame args
  have hs : step (screenFrame args) =
      .next (feedFoot2 Config.params 0xBA { screenFrame args with offers := [] }) := rfl
  have hf := feedFoot2_cases Config.params 0xBA { screenFrame args with offers := [] }
  rcases hf with ⟨hb, -⟩ | ⟨-, ha, -⟩ | ⟨-, -, -, hc, -⟩ | ⟨-, -, -, e⟩
  · exact absurd rfl hb
  · exact absurd ha (by simp [screenFrame, bytesOf16])
  · exact absurd rfl hc
  · rw [hs, e]
    have hcmd : le16 ((screenFrame args).acc.getD 0 0) ((screenFrame args).acc.getD 1 0) =
      Config.params.screenCmdId := h
    have hd : (screenFrame args).acc.drop 2 = args := rfl
    simp only [complete, reported, hcmd, if_pos, hd]
    rfl

/-- S-2: the frame that turns pixel (0, 0) on. -/
def paintingArgs : List Byte := [0x00, 0x00, 0x00, 0x01, 0x00, 0x00]

theorem test_witness_IrqFollowsEventQueue :
    step (screenFrame []) = .next (afterScreenFrame []) ∧ (screenFrame []).cfg.irqen = true ∧
    (afterScreenFrame []).cfg = (screenFrame []).cfg ∧ (screenFrame []).evq = [] ∧ (afterScreenFrame []).evq ≠ [] := by
  refine ⟨step_screenFrame [], rfl, rfl, rfl, fun h => ?_⟩
  cases h

theorem test_witness_OneResponsePerCommand :
    (offering [.input (.cmd 0x0200000000)]).offers = .input (.cmd 0x0200000000) :: [] := by
  decide

/-- A transmit queue that the staged frame fills exactly, and an event queue that a frame's worst case fills exactly. -/
theorem test_witness_BackPressureNeverOverflows :
    (let s := { beforeFooter with offers := [.input (.rx 0xBA)] }
     s.offers = .input (.rx 0xBA) :: [] ∧ circuitRxReady (some 12) false s = true ∧
       circuitRxReady (some 11) false s = false ∧
       step s = .next (feedByte Config.params 0xBA { s with offers := [] })) ∧
    (let s := { staged [0x01, 0x08, 0x13] with offers := [.input (.cmd 0x1300000000)] }
     s.offers = .input (.cmd 0x1300000000) :: [] ∧ circuitCmdReady (some 11) false s = true ∧
       circuitCmdReady (some 10) false s = false ∧
       step s = .next { State.reset with txq := keyPressFrame, rspq := [okRsp 11] }) := by
  refine ⟨⟨by decide, by decide, by decide, rfl⟩, by decide, by decide, by decide, rfl⟩

theorem test_witness_RstEdgeResets : (offering [.rst]).offers = .rst :: [] := by decide

theorem reset_inv : EngineInv Config.params State.reset := by
  refine ⟨by decide, ⟨by decide, by decide, ?_⟩, by decide, by simp [State.reset], rfl⟩
  intro h
  exact absurd h (by decide)

theorem test_witness_DecoderInvariantKept :
    let s := { offering [.input (.rx 0x17)] with stage := .payload, len := 1 }
    DecoderInv s ∧
    step s = .next { State.reset with stage := .cklo, len := 1, rcnt := 1, acc := [0x01], crcCalc := 0x1021 } := by
  exact ⟨by decide, rfl⟩

theorem test_witness_EngineInvariantKept :
    EngineInv Config.params (offering [.input (.rx 0xAB)]) ∧
    step (offering [.input (.rx 0xAB)]) = .next (inStage .sync2) := by
  exact ⟨reset_inv, rfl⟩

theorem test_witness_EngineInvariantAtReset : testParams.Legal ∧ ({ testParams with maxPayload := 2 } : Params).Legal := by
  decide

theorem test_witness_TransmitQueueHoldsFrames :
    let s := { staged [0x01, 0x08, 0x13] with offers := [.input (.cmd 0x1300000000)] }
    StagingInv s ∧ TxFrames s.txq ∧
    step s = .next { State.reset with txq := keyPressFrame, rspq := [okRsp 11] } := by
  refine ⟨by decide, ⟨[], 0, by simp, rfl⟩, rfl⟩

/-- Every flag cleared by one WRREG to STATUS. -/
theorem test_witness_StickyFlagsDiscipline_cleared :
    let f : Flags := { fmterr := true, crcerr := true, short := true, ovf := true, altseen := true, cmderr := true,
                       txovf := true }
    let s := { offering [.input (.cmd 0x09007F0000)] with flags := f }
    step s = .next (answered 0 State.reset) ∧ NextIs s (.wrreg 0 0x7F00) := by
  exact ⟨rfl, _, _, rfl, rfl⟩

theorem step_txbyte_staged (bs : List Byte) :
    step { staged bs with offers := [.input (.cmd 0x1200000000)] } = .next (txAppend [0x00] (staged bs)) := rfl

/-- The flags that can be set whatever the parameters are. -/
theorem test_witness_StickyFlagsDiscipline_set :
    (step (screenFrame []) = .next (afterScreenFrame []) ∧ (screenFrame []).flags.fmterr = false ∧
      (afterScreenFrame []).flags.fmterr = true) ∧
    (let s := { inStage .foot2 with crcCalc := 1, offers := [.input (.rx 0xBA)] }
     ∃ t, step s = .next t ∧ s.flags.crcerr = false ∧ t.flags.crcerr = true ∧ s.flags.short = false ∧
       t.flags.short = true) ∧
    (let s := offering [.input (.cmd 0x1300000000)]
     ∃ t, step s = .next t ∧ s.flags.cmderr = false ∧ t.flags.cmderr = true) ∧
    (let s := { staged (zeros 65535) with offers := [.input (.cmd 0x1200000000)] }
     ∃ t, step s = .next t ∧ s.flags.txovf = false ∧ t.flags.txovf = true) := by
  refine ⟨⟨step_screenFrame [], rfl, rfl⟩, ⟨_, rfl, rfl, rfl, rfl, rfl⟩, ⟨_, rfl, rfl, rfl⟩, ?_⟩
  refine ⟨txAppend [0x00] (staged (zeros 65535)), step_txbyte_staged _, rfl, ?_⟩
  rcases txAppend_cases [0x00] (staged (zeros 65535)) with ⟨h, -⟩ | ⟨-, e⟩
  · simp [staged, txMax, length_zeros] at h
  · rw [e]
    rfl

/-- OVF and ALTSEEN, where the machine's parameters let them be set at all. -/
theorem test_witness_StickyFlagsDiscipline_parameters :
    (∀ b, Config.params.altSyncByte = some b → b ≠ 0xAB →
      ∃ t, step (offering [.input (.rx b)]) = .next t ∧ t.flags.altseen = true) ∧
    (Config.params.maxPayload < 65535 →
      ∃ t, step { offering [.input (.rx 0xFF)] with stage := .lenhi, len := 0xFF } = .next t ∧ t.flags.ovf = true) := by
  refine ⟨fun b h hb => ⟨_, rfl, ?_⟩, fun h => ⟨_, rfl, ?_⟩⟩
  · simp only [feedByte, feedIdle, offering, State.reset]
    rw [if_neg (show b ≠ 0xAB#8 from hb), if_pos h]
  · simp only [feedByte, feedLenhi, offering]
    rw [if_pos (by simpa using h)]
    rfl

/-- A step that turns a pixel on, one that is refused by the format check, and a reset that turns the pixel off. -/
theorem test_witness_BitmapWrittenOnlyByScreenFrame :
    (step (screenFrame paintingArgs) = .next (afterScreenFrame paintingArgs) ∧
      pixel (screenFrame paintingArgs).bm 0 0 = false ∧ pixel (afterScreenFrame paintingArgs).bm 0 0 = true) ∧
    (step (screenFrame []) = .next (afterScreenFrame []) ∧ (afterScreenFrame []).bm = (screenFrame []).bm) ∧
    (let s := { afterScreenFrame paintingArgs with offers := [.rst] }
     ∃ t, step s = .next t ∧ pixel s.bm 0 0 = true ∧ pixel t.bm 0 0 = false) := by
  exact ⟨⟨step_screenFrame paintingArgs, rfl, rfl⟩, ⟨step_screenFrame [], rfl⟩, _, rfl, rfl, rfl⟩

theorem test_witness_StagingCommutesWithFeed :
    isStaging (.txuint 19) = true ∧
    exec (.txuint 19) (staged [0x01, 0x08]) = .next (answered 0 (staged [0x01, 0x08, 0x13])) ∧
    exec (.feed 0xAB) (staged [0x01, 0x08]) = .next { staged [0x01, 0x08] with stage := .sync2 } := by
  exact ⟨rfl, rfl, rfl⟩

theorem test_witness_IllFormedOperandsRefused :
    (Instr.wrreg 0x02 0).wellFormed = false ∧
    (let s := { State.reset with flags := { Flags.reset with cmderr := true } }
     Instr.nop.wellFormed = true ∧ needsStagedFrame .nop = false ∧ exec .nop s = .next (answered 0 s) ∧
       (answered 0 s).flags.cmderr = true) ∧
    (Instr.txbegin 0x0801).wellFormed = true ∧ needsStagedFrame (.txbegin 0x0801) = false := by
  exact ⟨rfl, ⟨rfl, rfl, rfl, rfl⟩, rfl, rfl⟩

theorem test_witness_SendExpandsToStaging :
    (0xFFFF < 65536 ∧ [SendArg.uint 19, .rawBytes [255], .smallInts [0x113]].mapM asmArg =
      some [[.txuint 19], [.txbyte 0xFF 0], [.txbyte 0x13 1]]) ∧
    (∀ b ∈ [0, 255], b < 256) ∧ (∃ b ∈ [0, 256], 256 ≤ b) ∧ (∀ v ∈ [0, 0xFFFFFFFF], v < 2 ^ 32) ∧
    (∃ v ∈ [0, 0x100000000], 2 ^ 32 ≤ v) ∧ 65536 ≤ 0x10000 ∧
    (∃ a ∈ [SendArg.uint 19, .uint 0x100000000], asmArg a = none) := by
  refine ⟨⟨by decide, rfl⟩, by decide, ⟨256, by decide, by decide⟩, by decide, ⟨0x100000000, by decide, by decide⟩,
    by decide, .uint 0x100000000, by decide, rfl⟩

end Sys2Proof.Tests
end

/-! The part of the engine's state that its invariant reads, what a step can do to it, and the invariant itself
(10_state.md R24 to R28, R34; 30_encoding.md R100, R101). -/

namespace Sys2Proof.Proofs

open Sys2Proof.Machine Sys2Proof.Claims

/-! ### What a step can do to the fields that the invariant reads -/

/-- `s` with every field that the engine's invariant does not read at its reset value. -/
def readByInv (s : State) : State :=
  { State.reset with
    stage := s.stage, len := s.len, rcnt := s.rcnt, acc := s.acc, crcCalc := s.crcCalc
    txact := s.txact, txs := s.txs, evq := s.evq, evtPos := s.evtPos }

/-- A property of those fields that reset has and each operation of the rules keeps. -/
structure KeptByOps (P : State → Prop) : Prop where
  blind : ∀ s, P (readByInv s) ↔ P s
  reset : P State.reset
  feed : ∀ {s} b, P s → P (feedByte Config.params b s)
  idle : ∀ {s}, P s → P (toIdle s)
  begin : ∀ {s} cmd, P s → P { s with txs := bytesOf16 cmd, txact := true }
  append : ∀ {s} bs, s.txact = true → s.txs.length + bs.length ≤ txMax → P s → P { s with txs := s.txs ++ bs }
  unstage : ∀ {s}, P s → P { s with txs := [], txact := false }
  takeEvent : ∀ {s}, P s → P (takeEventByte s)

section
variable {P : State → Prop}

/-- Two states that agree in those fields have the property alike. -/
theorem KeptByOps.congr (k : KeptByOps P) {s t : State} (hs : P s) (h : readByInv t = readByInv s) : P t := by
  rw [← k.blind, h, k.blind]
  exact hs

theorem KeptByOps.txAppend (k : KeptByOps P) {s : State} (bs : List Byte) (ha : s.txact = true) (hs : P s) :
    P (txAppend bs s) := by
  rcases txAppend_cases bs s with ⟨hfit, e⟩ | ⟨-, e⟩ <;> rw [e]
  · exact k.congr (k.append bs ha hfit hs) rfl
  · exact k.congr (k.unstage hs) rfl

theorem KeptByOps.exec (k : KeptByOps P) {i : Instr} {s t : State} (h : exec i s = .next t) (hs : P s) : P t := by
  rcases exec_cases h with ⟨b, -, rfl⟩ | ⟨-, rfl⟩ | ⟨-, rfl⟩ | ⟨v, -, rfl⟩ | ⟨v, -, rfl⟩ | ⟨cmd, -, rfl⟩ |
    ⟨bs, ha, rfl, -⟩ | ⟨-, -, rfl⟩ | ⟨-, rfl, -⟩ | ⟨-, rfl⟩ | ⟨⟨v, rfl⟩, -⟩
  · exact k.feed b hs
  · exact k.congr (k.idle hs) rfl
  · exact k.congr k.reset rfl
  · exact k.congr hs rfl
  · exact k.congr hs rfl
  · exact k.congr (k.begin cmd hs) rfl
  · exact k.txAppend bs ha hs
  · exact k.congr (k.unstage hs) rfl
  · exact k.congr hs rfl
  · exact k.congr hs rfl
  · exact k.congr hs rfl

/-- The step lemma of every invariant below. -/
theorem KeptByOps.step (k : KeptByOps P) {s t : State} (hs : P s) (h : step s = .next t) : P t := by
  rcases step_cases h with ⟨-, rfl⟩ | ⟨o, rest, -, hstep⟩
  · exact hs
  · have hs' : P { s with offers := rest } := k.congr hs rfl
    rcases hstep with ⟨w, i, -, -, hexec⟩ | ⟨w, e, -, -, rfl⟩ | ⟨-, rfl⟩ | ⟨-, rfl⟩ | ⟨-, rfl⟩ | ⟨-, rfl⟩
    · exact k.exec hexec hs'
    · exact k.congr hs rfl
    · exact k.congr hs rfl
    · exact k.takeEvent hs'
    · exact k.congr hs rfl
    · exact k.congr k.reset rfl

end

/-! ### The decoder's invariant (R27), stage by stage -/

theorem decoderInv_before {s : State} (h : s.stage.beforePayload = true) :
    DecoderInv s ↔ s.rcnt = 0 ∧ s.acc = [] := by
  cases hst : s.stage <;> simp_all [DecoderInv, Stage.beforePayload, Stage.afterPayload]

theorem decoderInv_payload {s : State} (h : s.stage = .payload) :
    DecoderInv s ↔ s.acc.length = s.rcnt.toNat ∧ s.rcnt.toNat < s.len.toNat := by
  simp [DecoderInv, h, Stage.beforePayload, Stage.afterPayload]

theorem decoderInv_after {s : State} (h : s.stage.afterPayload = true) :
    DecoderInv s ↔ s.acc.length = s.rcnt.toNat ∧ s.rcnt = s.len := by
  cases hst : s.stage <;> simp_all [DecoderInv, Stage.beforePayload, Stage.afterPayload]

/-- `to_idle()` empties everything the invariant speaks of (R163). -/
theorem decoderInv_toIdle (s : State) : DecoderInv (toIdle s) := (decoderInv_before rfl).2 ⟨rfl, rfl⟩

theorem decoderInv_feedLenhi (p : Params) (b : Byte) (s : State) : DecoderInv (feedLenhi p b s) := by
  unfold feedLenhi
  dsimp only
  split
  · exact decoderInv_toIdle _
  · split
    · next hlen => exact (decoderInv_after rfl).2 ⟨rfl, hlen.symm⟩
    · next hlen => exact (decoderInv_payload rfl).2 ⟨rfl, by bv_omega⟩

theorem feedPayload_stage (b : Byte) (s : State) :
    (feedPayload b s).stage = if s.rcnt + 1 = s.len then .cklo else .payload := rfl

/-- While `RCNT < LEN`, counting one more byte does not wrap (R157). -/
theorem decoderInv_feedPayload (b : Byte) {s : State} (hst : s.stage = .payload) (hs : DecoderInv s) :
    DecoderInv (feedPayload b s) := by
  obtain ⟨hacc, hlt⟩ := (decoderInv_payload hst).1 hs
  have hsucc : (s.rcnt + 1).toNat = s.rcnt.toNat + 1 := by bv_omega
  have hlen : (feedPayload b s).acc.length = (s.rcnt + 1).toNat := by
    rw [hsucc, ← hacc]
    exact List.length_append
  by_cases hlast : s.rcnt + 1 = s.len
  · exact (decoderInv_after (by rw [feedPayload_stage, if_pos hlast]; rfl)).2 ⟨hlen, hlast⟩
  · refine (decoderInv_payload (by rw [feedPayload_stage, if_neg hlast])).2 ⟨hlen, ?_⟩
    change (s.rcnt + 1).toNat < s.len.toNat
    bv_omega

theorem decoderInv_feedByte (p : Params) (b : Byte) {s : State} (hs : DecoderInv s) : DecoderInv (feedByte p b s) := by
  unfold feedByte
  cases hst : s.stage <;> dsimp only
  case idle =>
    have h := (decoderInv_before (s := s) (by rw [hst]; rfl)).1 hs
    unfold feedIdle
    split
    · exact (decoderInv_before rfl).2 h
    · split
      · exact (decoderInv_before rfl).2 h
      · exact hs
  case sync2 =>
    unfold feedSync2
    split
    · exact (decoderInv_before rfl).2 ((decoderInv_before (s := s) (by rw [hst]; rfl)).1 hs)
    · exact decoderInv_toIdle s
  case alt => exact hs
  case lenlo => exact (decoderInv_before rfl).2 ((decoderInv_before (s := s) (by rw [hst]; rfl)).1 hs)
  case lenhi => exact decoderInv_feedLenhi p b s
  case payload => exact decoderInv_feedPayload b hst hs
  case cklo => exact (decoderInv_after rfl).2 ((decoderInv_after (s := s) (by rw [hst]; rfl)).1 hs)
  case ckhi => exact (decoderInv_after rfl).2 ((decoderInv_after (s := s) (by rw [hst]; rfl)).1 hs)
  case foot1 =>
    unfold feedFoot1
    split
    · exact (decoderInv_after rfl).2 ((decoderInv_after (s := s) (by rw [hst]; rfl)).1 hs)
    · exact decoderInv_toIdle s
  case foot2 =>
    rcases feedFoot2_cases p b s with ⟨-, e⟩ | ⟨-, -, e⟩ | ⟨-, -, -, -, e⟩ | ⟨-, -, -, e⟩ <;> rw [e] <;>
      exact decoderInv_toIdle _

theorem decoderInv_takeEventByte {s : State} (hs : DecoderInv s) : DecoderInv (takeEventByte s) := by
  rcases takeEventByte_cases s with ⟨-, e⟩ | ⟨_, _, -, ⟨-, e⟩ | ⟨-, e⟩⟩ <;> rw [e] <;> exact hs

theorem decoderInv_kept : KeptByOps DecoderInv where
  blind _ := Iff.rfl
  reset := (decoderInv_before rfl).2 ⟨rfl, rfl⟩
  feed b hs := decoderInv_feedByte _ b hs
  idle _ := decoderInv_toIdle _
  begin _ hs := hs
  append _ _ _ hs := hs
  unstage hs := hs
  takeEvent hs := decoderInv_takeEventByte hs

/-- Settles O52: each operation keeps the invariant stage by stage, so every step does. -/
theorem decoderInvariantKept : Obligations.DecoderInvariantKept :=
  fun _ _ hs h => decoderInv_kept.step hs h

end Sys2Proof.Proofs

/-! What FEED does to the sticky flags and the event queue, and the rest of the engine's invariant (10_state.md R24, R28,
R34; 30_encoding.md R100, R101; 41_frame_decoder.md R150 to R162). -/

namespace Sys2Proof.Proofs

open Sys2Proof.Machine Sys2Proof.Claims

/-! ### What FEED reports -/

/-- Before FOOT2, FEED emits nothing, and it sets a flag only for an alternate sync byte (R150) or a length that is too
large (R155). -/
theorem feedByte_report_cases (p : Params) (b : Byte) (s : State) :
    ((feedByte p b s).evq = s.evq ∧ (feedByte p b s).flags = s.flags) ∨
    (s.stage = .idle ∧ p.altSyncByte = some b ∧ (feedByte p b s).evq = s.evq ∧
      (feedByte p b s).flags = { s.flags with altseen := true }) ∨
    (s.stage = .lenhi ∧ p.maxPayload < (s.len ||| (b.setWidth 16 <<< 8)).toNat ∧ (feedByte p b s).evq = s.evq ∧
      (feedByte p b s).flags = { s.flags with ovf := true }) ∨
    (s.stage = .foot2 ∧ feedByte p b s = feedFoot2 p b s) := by
  unfold feedByte
  cases hst : s.stage <;> dsimp only
  case idle =>
    unfold feedIdle
    split
    · exact .inl ⟨rfl, rfl⟩
    · split
      · next halt => exact .inr (.inl ⟨rfl, halt, rfl, rfl⟩)
      · exact .inl ⟨rfl, rfl⟩
  case lenhi =>
    unfold feedLenhi
    dsimp only
    split
    · next hmax => exact .inr (.inr (.inl ⟨rfl, hmax, rfl, rfl⟩))
    · split <;> exact .inl ⟨rfl, rfl⟩
  case sync2 =>
    unfold feedSync2
    split <;> exact .inl ⟨rfl, rfl⟩
  case foot1 =>
    unfold feedFoot1
    split <;> exact .inl ⟨rfl, rfl⟩
  case foot2 => exact .inr (.inr (.inr ⟨rfl, rfl⟩))
  all_goals exact .inl ⟨rfl, rfl⟩

/-- The event of a completion (R162). -/
def frameEvent (ok : Bool) (s : State) : Event :=
  .frame (commandOf s.acc) (s.acc.drop 2) s.crcCalc s.crcRecv ok

/-- R162: the FRAME event, then the screen decoder for the screen command. -/
theorem complete_eq (p : Params) (ok : Bool) (s : State) :
    complete p ok s =
      if commandOf s.acc = p.screenCmdId then screenDispatch (s.acc.drop 2) (emit (frameEvent ok s) s)
      else emit (frameEvent ok s) s := rfl

theorem screenDispatch_evq (args : List Byte) (s : State) :
    ∃ e, (screenDispatch args s).evq = s.evq ++ [e] ∧ e.Sound := by
  rcases screenDispatch_cases args s with ⟨-, e⟩ | ⟨-, e⟩ <;> rw [e]
  · exact ⟨.bitmapChanged, rfl, trivial⟩
  · exact ⟨.formatError, rfl, trivial⟩

theorem screenDispatch_flags (args : List Byte) (s : State) :
    (screenDispatch args s).flags = s.flags ∨
    (screenFormatOk args = false ∧ (screenDispatch args s).flags = { s.flags with fmterr := true }) := by
  rcases screenDispatch_cases args s with ⟨-, e⟩ | ⟨hfmt, e⟩ <;> rw [e]
  · exact .inl rfl
  · exact .inr ⟨hfmt, rfl⟩

/-- R162: a completion emits its FRAME, and behind it at most the screen decoder's event. -/
theorem complete_evq (p : Params) (ok : Bool) (s : State) :
    ∃ more, (complete p ok s).evq = s.evq ++ frameEvent ok s :: more ∧ ∀ e ∈ more, e.Sound := by
  rw [complete_eq]
  split
  · obtain ⟨e, hevq, he⟩ := screenDispatch_evq (s.acc.drop 2) (emit (frameEvent ok s) s)
    exact ⟨[e], by rw [hevq, emit_evq, ← List.append_cons], by simpa using he⟩
  · exact ⟨[], rfl, by simp⟩

/-- R162, R242: a completion sets FMTERR where the screen decoder refuses its payload, and no other flag. -/
theorem complete_flags (p : Params) (ok : Bool) (s : State) :
    (complete p ok s).flags = s.flags ∨
    (commandOf s.acc = p.screenCmdId ∧ screenFormatOk (s.acc.drop 2) = false ∧
      (complete p ok s).flags = { s.flags with fmterr := true }) := by
  rw [complete_eq]
  split
  · next hcmd => exact (screenDispatch_flags _ _).imp id fun ⟨hfmt, e⟩ => ⟨hcmd, hfmt, e⟩
  · exact .inl rfl

/-- R101: an accumulator of at most 65535 bytes leaves at most 65533 bytes of args. -/
theorem frameEvent_sound {s : State} (h : s.acc.length ≤ 65535) :
    (frameEvent (decide (s.crcCalc = s.crcRecv)) s).Sound := by
  refine ⟨?_, rfl⟩
  rw [List.length_drop]
  omega

theorem feedFoot2_evq (p : Params) (b : Byte) {s : State} (hacc : s.acc.length ≤ 65535) :
    ∃ es, (feedFoot2 p b s).evq = s.evq ++ es ∧ ∀ e ∈ es, e.Sound := by
  rcases feedFoot2_cases p b s with ⟨-, e⟩ | ⟨-, -, e⟩ | ⟨-, -, -, -, e⟩ | ⟨-, -, -, e⟩ <;> rw [e, toIdle_evq]
  · exact ⟨[], (List.append_nil _).symm, nofun⟩
  · exact ⟨[], (List.append_nil _).symm, nofun⟩
  · exact ⟨[], (List.append_nil _).symm, nofun⟩
  · obtain ⟨more, hevq, hmore⟩ := complete_evq p (decide (s.crcCalc = s.crcRecv)) (reported s)
    exact ⟨_, hevq, List.forall_mem_cons.2 ⟨frameEvent_sound (s := reported s) hacc, hmore⟩⟩

/-- FEED appends sound events, as `ACC` holds at most 65535 bytes (R26, R101). -/
theorem feedByte_evq (p : Params) (b : Byte) (s : State) (hacc : s.acc.length ≤ 65535) :
    ∃ es, (feedByte p b s).evq = s.evq ++ es ∧ ∀ e ∈ es, e.Sound := by
  rcases feedByte_report_cases p b s with ⟨e, -⟩ | ⟨-, -, e, -⟩ | ⟨-, -, e, -⟩ | ⟨-, e⟩
  · exact ⟨[], by rw [e, List.append_nil], nofun⟩
  · exact ⟨[], by rw [e, List.append_nil], nofun⟩
  · exact ⟨[], by rw [e, List.append_nil], nofun⟩
  · rw [e]
    exact feedFoot2_evq p b hacc

/-! ### The frame's part of the invariant (R24, R28, R156), stage by stage -/

section
variable {p : Params} {s : State}

theorem frameInv_outside (h : s.stage = .idle ∨ s.stage = .sync2 ∨ s.stage = .lenlo ∨ s.stage = .alt) :
    FrameInv p s ↔ s.len = 0 := by
  rcases h with h | h | h | h <;> simp [FrameInv, h, Stage.afterPayload]

theorem frameInv_lenhi (h : s.stage = .lenhi) : FrameInv p s ↔ s.len.toNat < 256 := by
  simp [FrameInv, h, Stage.afterPayload]

theorem frameInv_within (h : s.stage = .payload ∨ s.stage.afterPayload = true) :
    FrameInv p s ↔ s.len.toNat ≤ p.maxPayload ∧ s.crcCalc = crcSeq 0 s.acc := by
  cases hst : s.stage <;> simp_all [FrameInv, Stage.afterPayload]

theorem frameInv_toIdle (p : Params) (s : State) : FrameInv p (toIdle s) := (frameInv_outside (.inl rfl)).2 rfl

/-- R123: the checksum takes the last byte last. -/
theorem crcSeq_concat (seed : U16) (bs : List Byte) (b : Byte) :
    crcSeq seed (bs ++ [b]) = crcUpdate b (crcSeq seed bs) := by
  simp [crcSeq, List.foldl_append]

theorem frameInv_feedLenlo (p : Params) (b : Byte) (s : State) : FrameInv p (feedLenlo b s) := by
  refine (frameInv_lenhi rfl).2 ?_
  change (b.setWidth 16).toNat < 256
  bv_omega

theorem frameInv_feedLenhi (p : Params) (b : Byte) (s : State) : FrameInv p (feedLenhi p b s) := by
  unfold feedLenhi
  dsimp only
  split
  · exact frameInv_toIdle p _
  · next hmax =>
    split
    · exact (frameInv_within (.inr rfl)).2 ⟨Nat.not_lt.1 hmax, rfl⟩
    · exact (frameInv_within (.inl rfl)).2 ⟨Nat.not_lt.1 hmax, rfl⟩

theorem frameInv_feedPayload (b : Byte) (hst : s.stage = .payload) (hs : FrameInv p s) :
    FrameInv p (feedPayload b s) := by
  obtain ⟨hmax, hcrc⟩ := (frameInv_within (.inl hst)).1 hs
  refine (frameInv_within ?_).2 ⟨hmax, ?_⟩
  · rw [feedPayload_stage]
    split
    · exact .inr rfl
    · exact .inl rfl
  · change crcUpdate _ s.crcCalc = crcSeq 0 (s.acc ++ [_])
    rw [crcSeq_concat, hcrc]

theorem frameInv_feedByte (b : Byte) (hs : FrameInv p s) : FrameInv p (feedByte p b s) := by
  unfold feedByte
  cases hst : s.stage <;> dsimp only
  case idle =>
    have hlen := (frameInv_outside (.inl hst)).1 hs
    unfold feedIdle
    split
    · exact (frameInv_outside (.inr (.inl rfl))).2 hlen
    · split
      · exact (frameInv_outside (.inr (.inr (.inr rfl)))).2 hlen
      · exact hs
  case sync2 =>
    unfold feedSync2
    split
    · exact (frameInv_outside (.inr (.inr (.inl rfl)))).2 ((frameInv_outside (.inr (.inl hst))).1 hs)
    · exact frameInv_toIdle p s
  case alt => exact hs
  case lenlo => exact frameInv_feedLenlo p b s
  case lenhi => exact frameInv_feedLenhi p b s
  case payload => exact frameInv_feedPayload b hst hs
  case cklo => exact (frameInv_within (.inr rfl)).2 ((frameInv_within (s := s) (.inr (by rw [hst]; rfl))).1 hs)
  case ckhi => exact (frameInv_within (.inr rfl)).2 ((frameInv_within (s := s) (.inr (by rw [hst]; rfl))).1 hs)
  case foot1 =>
    unfold feedFoot1
    split
    · exact (frameInv_within (.inr rfl)).2 ((frameInv_within (s := s) (.inr (by rw [hst]; rfl))).1 hs)
    · exact frameInv_toIdle p s
  case foot2 =>
    rcases feedFoot2_cases p b s with ⟨-, e⟩ | ⟨-, -, e⟩ | ⟨-, -, -, -, e⟩ | ⟨-, -, -, e⟩ <;> rw [e] <;>
      exact frameInv_toIdle p _

theorem frameInv_takeEventByte (hs : FrameInv p s) : FrameInv p (takeEventByte s) := by
  rcases takeEventByte_cases s with ⟨-, e⟩ | ⟨_, _, -, ⟨-, e⟩ | ⟨-, e⟩⟩ <;> rw [e] <;> exact hs

end

theorem frameInv_kept : KeptByOps (FrameInv Config.params) where
  blind _ := Iff.rfl
  reset := (frameInv_outside (.inl rfl)).2 rfl
  feed b hs := frameInv_feedByte b hs
  idle _ := frameInv_toIdle _ _
  begin _ hs := hs
  append _ _ _ hs := hs
  unstage hs := hs
  takeEvent hs := frameInv_takeEventByte hs

/-! ### The staging buffer (R34) -/

theorem stagingInv_unstaged {s : State} (ha : s.txact = false) (hs : s.txs = []) : StagingInv s :=
  ⟨fun _ => hs, fun h => (nomatch ha.symm.trans h)⟩

theorem stagingInv_staged {s : State} (ha : s.txact = true) (hlow : 2 ≤ s.txs.length) (hhigh : s.txs.length ≤ txMax) :
    StagingInv s :=
  ⟨fun h => (nomatch ha.symm.trans h), fun _ => ⟨hlow, hhigh⟩⟩

theorem stagingInv_append {s : State} (bs : List Byte) (ha : s.txact = true)
    (hfit : s.txs.length + bs.length ≤ txMax) (hs : StagingInv s) : StagingInv { s with txs := s.txs ++ bs } := by
  have hlow := (hs.2 ha).1
  refine stagingInv_staged ha ?_ ?_ <;> rw [List.length_append] <;> omega

theorem stagingInv_feedByte (p : Params) (b : Byte) {s : State} (hs : StagingInv s) : StagingInv (feedByte p b s) := by
  obtain ⟨-, hact, htxs, -⟩ := feedByte_keeps p b s
  simpa only [StagingInv, hact, htxs] using hs

theorem stagingInv_takeEventByte {s : State} (hs : StagingInv s) : StagingInv (takeEventByte s) := by
  rcases takeEventByte_cases s with ⟨-, e⟩ | ⟨_, _, -, ⟨-, e⟩ | ⟨-, e⟩⟩ <;> rw [e] <;> exact hs

theorem stagingInv_kept : KeptByOps StagingInv where
  blind _ := Iff.rfl
  reset := stagingInv_unstaged rfl rfl
  feed b hs := stagingInv_feedByte _ b hs
  idle hs := hs
  begin _ _ := stagingInv_staged rfl (Nat.le_refl 2) (by simp [txMax, bytesOf16])
  append bs ha hfit hs := stagingInv_append bs ha hfit hs
  unstage _ := stagingInv_unstaged rfl rfl
  takeEvent hs := stagingInv_takeEventByte hs

/-! ### The event queue and its port (R100, R101) -/

/-- Every event record begins with its kind byte (R101, R102). -/
theorem record_length_pos (e : Event) : 0 < e.record.length := by
  cases e <;> exact Nat.succ_pos _

theorem eventInv_nil {s : State} (hq : s.evq = []) (hp : s.evtPos = 0) : EventInv s := by
  simp [EventInv, hq, hp]

theorem eventInv_cons {s : State} {e : Event} {rest : List Event} (hq : s.evq = e :: rest) :
    EventInv s ↔ (e.Sound ∧ ∀ e' ∈ rest, e'.Sound) ∧ s.evtPos < e.record.length := by
  simp only [EventInv, hq, List.forall_mem_cons]

/-- No byte of the head's record has been taken where the position is 0. -/
theorem eventInv_start {s : State} (hsound : ∀ e ∈ s.evq, e.Sound) (hp : s.evtPos = 0) : EventInv s := by
  cases hq : s.evq with
  | nil => exact eventInv_nil hq hp
  | cons e rest =>
    rw [hq] at hsound
    exact (eventInv_cons hq).2 ⟨List.forall_mem_cons.1 hsound, by rw [hp]; exact record_length_pos e⟩

/-- Sound events at the tail leave the head's record as it is, or begin a first one. -/
theorem eventInv_append {s t : State} {es : List Event} (hs : EventInv s) (hes : ∀ e ∈ es, e.Sound)
    (hq : t.evq = s.evq ++ es) (hp : t.evtPos = s.evtPos) : EventInv t := by
  have hsound : ∀ e ∈ t.evq, e.Sound := by
    rw [hq]
    exact List.forall_mem_append.2 ⟨hs.1, hes⟩
  cases hsq : s.evq with
  | nil =>
    have hpos : s.evtPos = 0 := by simpa [EventInv, hsq] using hs
    exact eventInv_start hsound (hp.trans hpos)
  | cons e rest =>
    obtain ⟨-, hpos⟩ := (eventInv_cons hsq).1 hs
    rw [hsq, List.cons_append] at hq
    rw [hq] at hsound
    exact (eventInv_cons hq).2 ⟨List.forall_mem_cons.1 hsound, by rw [hp]; exact hpos⟩

theorem eventInv_takeEventByte {s : State} (hs : EventInv s) : EventInv (takeEventByte s) := by
  rcases takeEventByte_cases s with ⟨-, e⟩ | ⟨ev, rest, hq, ⟨hlt, e⟩ | ⟨-, e⟩⟩ <;> rw [e]
  · exact hs
  · exact (eventInv_cons (s := { s with evtPos := s.evtPos + 1 }) hq).2 ⟨((eventInv_cons hq).1 hs).1, hlt⟩
  · exact eventInv_start ((eventInv_cons hq).1 hs).1.2 rfl

theorem eventInv_feedByte (p : Params) (b : Byte) {s : State} (hd : DecoderInv s) (hs : EventInv s) :
    EventInv (feedByte p b s) := by
  have hacc : s.acc.length ≤ 65535 := by
    rw [hd.1]
    bv_omega
  obtain ⟨es, hq, hes⟩ := feedByte_evq p b s hacc
  obtain ⟨-, -, -, -, hp, -⟩ := feedByte_keeps p b s
  exact eventInv_append hs hes hq hp

/-- The event queue needs the decoder beside it: a FRAME's args fit because `RCNT` counts `ACC`. -/
theorem eventInv_kept : KeptByOps fun s => DecoderInv s ∧ EventInv s where
  blind _ := Iff.rfl
  reset := ⟨decoderInv_kept.reset, eventInv_nil rfl rfl⟩
  feed b hs := ⟨decoderInv_kept.feed b hs.1, eventInv_feedByte _ b hs.1 hs.2⟩
  idle hs := ⟨decoderInv_toIdle _, hs.2⟩
  begin _ hs := hs
  append _ _ _ hs := hs
  unstage hs := hs
  takeEvent hs := ⟨decoderInv_kept.takeEvent hs.1, eventInv_takeEventByte hs.2⟩

/-! ### The whole invariant -/

/-- Settles O53: each part of the invariant is kept by every operation, the event queue's together with the decoder's. -/
theorem engineInvariantKept : Obligations.EngineInvariantKept := by
  rintro s t ⟨hdec, hframe, hstaging, hevent⟩ h
  obtain ⟨hdec', hevent'⟩ := eventInv_kept.step ⟨hdec, hevent⟩ h
  exact ⟨hdec', frameInv_kept.step hframe h, stagingInv_kept.step hstaging h, hevent'⟩

/-- Settles O50. -/
theorem resetValues : Obligations.ResetValues :=
  ⟨rfl, rfl, rfl, rfl, rfl, rfl, rfl, rfl, rfl, rfl, rfl, pixel_zero, rfl, rfl⟩

/-- R8: the machine's own parameters are legal, whatever the open values are. -/
theorem params_legal : Config.params.Legal := by
  refine ⟨?_, Nat.le_add_left 2 _, ?_⟩
  · change Config.altSyncByte ≠ some 0xAB#8
    unfold Config.altSyncByte
    split
    · exact nofun
    · assumption
  · change Config.maxPayloadRaw.val + 2 ≤ 65535
    omega

/-- Settles O54: no part of the invariant at reset depends on the parameters. -/
theorem engineInvariantAtReset : Obligations.EngineInvariantAtReset :=
  ⟨fun _ _ => ⟨decoderInv_kept.reset, (frameInv_outside (.inl rfl)).2 rfl, stagingInv_kept.reset,
      eventInv_nil rfl rfl⟩,
    params_legal, [], 0, by simp, rfl⟩

end Sys2Proof.Proofs

/-! The sticky flags: what sets one and what clears one (10_state.md R32, R33). -/

namespace Sys2Proof.Proofs

open Sys2Proof.Machine Sys2Proof.Claims

/-! ### The flags by name -/

/-- The sticky flags of R32. -/
inductive Flag where
  | fmterr | crcerr | short | ovf | altseen | cmderr | txovf

/-- The flag's bit in STATUS (R32). -/
def Flag.bitPos : Flag → Nat
  | .fmterr => 8
  | .crcerr => 9
  | .short => 10
  | .ovf => 11
  | .altseen => 12
  | .cmderr => 13
  | .txovf => 14

/-- The flag's value. -/
def Flag.get (f : Flags) : Flag → Bool
  | .fmterr => f.fmterr
  | .crcerr => f.crcerr
  | .short => f.short
  | .ovf => f.ovf
  | .altseen => f.altseen
  | .cmderr => f.cmderr
  | .txovf => f.txovf

/-- The flags with this one set. -/
def Flag.set (f : Flags) : Flag → Flags
  | .fmterr => { f with fmterr := true }
  | .crcerr => { f with crcerr := true }
  | .short => { f with short := true }
  | .ovf => { f with ovf := true }
  | .altseen => { f with altseen := true }
  | .cmderr => { f with cmderr := true }
  | .txovf => { f with txovf := true }

/-- Read after write, for one flag. -/
theorem get_set (f : Flags) (k k' : Flag) : k'.get (k.set f) = true ↔ k' = k ∨ k'.get f = true := by
  cases k <;> cases k' <;> simp [Flag.get, Flag.set]

theorem get_reset (k : Flag) : k.get Flags.reset = false := by cases k <;> rfl

/-- R284: a WRREG to STATUS clears the flags in whose bits it writes a 1. -/
theorem get_clearBy (f : Flags) (v : U16) (k : Flag) : k.get (f.clearBy v) = (k.get f && !v.getLsbD k.bitPos) := by
  cases k <;> rfl

/-! ### Setting flags only -/

/-- From `f` to `g` no flag is cleared, and each flag that is set has its cause. -/
def SetsOnly (C : Flag → Prop) (f g : Flags) : Prop :=
  ∀ k : Flag, (k.get f = true → k.get g = true) ∧ (k.get f = false → k.get g = true → C k)

section
variable {C D : Flag → Prop} {f g h : Flags}

theorem SetsOnly.refl : SetsOnly C f f := fun _ => ⟨id, fun h0 h1 => nomatch h0.symm.trans h1⟩

theorem SetsOnly.trans (hfg : SetsOnly C f g) (hgh : SetsOnly C g h) : SetsOnly C f h := by
  refine fun k => ⟨(hgh k).1 ∘ (hfg k).1, fun h0 h1 => ?_⟩
  cases hg : k.get g
  · exact (hgh k).2 hg h1
  · exact (hfg k).2 h0 hg

theorem SetsOnly.mono (hCD : ∀ k, C k → D k) (hfg : SetsOnly C f g) : SetsOnly D f g :=
  fun k => ⟨(hfg k).1, fun h0 h1 => hCD k ((hfg k).2 h0 h1)⟩

theorem SetsOnly.set {k : Flag} (hC : C k) : SetsOnly C f (k.set f) := by
  refine fun k' => ⟨fun h0 => (get_set f k k').2 (.inr h0), fun h0 h1 => ?_⟩
  rcases (get_set f k k').1 h1 with rfl | h1
  · exact hC
  · exact nomatch h0.symm.trans h1

end

/-! ### FEED -/

/-- When FEED sets a flag, as the flag's row of R32 says. -/
def FeedCause (p : Params) (b : Byte) (s : State) : Flag → Prop
  | .fmterr => b = 0xBA ∧ s.stage = .foot2 ∧ commandOf s.acc = p.screenCmdId ∧
      (s.acc.length < 5 ∨ (s.acc.length - 2) % 3 ≠ 0)
  | .crcerr => b = 0xBA ∧ s.stage = .foot2 ∧ s.crcCalc ≠ s.crcRecv
  | .short => b = 0xBA ∧ s.stage = .foot2 ∧ s.acc.length < 2
  | .ovf => s.stage = .lenhi ∧ p.maxPayload < (s.len ||| (b.setWidth 16 <<< 8)).toNat
  | .altseen => s.stage = .idle ∧ p.altSyncByte = some b
  | .cmderr => False
  | .txovf => False

/-- R242, for the args of an accumulator. -/
theorem length_of_screenFormat_bad {acc : List Byte} (h : screenFormatOk (acc.drop 2) = false) :
    acc.length < 5 ∨ (acc.length - 2) % 3 ≠ 0 := by
  simp [screenFormatOk] at h
  omega

/-- R161: the checksum report sets CRCERR on a mismatch. -/
theorem reported_setsOnly {C : Flag → Prop} {s : State} (hC : s.crcCalc ≠ s.crcRecv → C .crcerr) :
    SetsOnly C s.flags (reported s).flags := by
  by_cases hcrc : s.crcCalc = s.crcRecv
  · have e : (reported s).flags = s.flags := by simp [reported, hcrc]
    rw [e]
    exact .refl
  · have e : (reported s).flags = Flag.crcerr.set s.flags := by simp [reported, hcrc, Flag.set]
    rw [e]
    exact .set (hC hcrc)

theorem feedFoot2_setsOnly (p : Params) (b : Byte) {s : State} (hst : s.stage = .foot2) :
    SetsOnly (FeedCause p b s) s.flags (feedFoot2 p b s).flags := by
  rcases feedFoot2_cases p b s with ⟨-, e⟩ | ⟨hb, hacc, e⟩ | ⟨hb, -, -, -, e⟩ | ⟨hb, -, -, e⟩ <;>
    rw [e, toIdle_flags]
  · exact .refl
  · exact (reported_setsOnly fun hcrc => ⟨hb, hst, hcrc⟩).trans (.set (k := .short) ⟨hb, hst, hacc⟩)
  · exact reported_setsOnly fun hcrc => ⟨hb, hst, hcrc⟩
  · refine (reported_setsOnly fun hcrc => ⟨hb, hst, hcrc⟩).trans ?_
    rcases complete_flags p (decide (s.crcCalc = s.crcRecv)) (reported s) with e | ⟨hcmd, hfmt, e⟩ <;> rw [e]
    · exact .refl
    · exact .set (k := .fmterr) ⟨hb, hst, hcmd, length_of_screenFormat_bad hfmt⟩

theorem feedByte_setsOnly (p : Params) (b : Byte) (s : State) :
    SetsOnly (FeedCause p b s) s.flags (feedByte p b s).flags := by
  rcases feedByte_report_cases p b s with ⟨-, e⟩ | ⟨hst, halt, -, e⟩ | ⟨hst, hmax, -, e⟩ | ⟨hst, e⟩ <;> rw [e]
  · exact .refl
  · exact .set (k := .altseen) ⟨hst, halt⟩
  · exact .set (k := .ovf) ⟨hst, hmax⟩
  · exact feedFoot2_setsOnly p b hst

/-! ### Every transaction -/

/-- An append to the staged payload that overflows (R205): the frame is aborted with code 4. -/
def AppendOverflows (i : Instr) (s t : State) : Prop :=
  ((∃ v, i = .txuint v ∧ 65535 < s.txs.length + (serUint v).length) ∨
    ∃ b x, i = .txbyte b x ∧ 65535 < s.txs.length + 1) ∧
  s.txact = true ∧ t.txact = false ∧ t.txs = [] ∧ t.rspq = s.rspq ++ [errRsp 4]

/-- A refusal that sets CMDERR (R312). -/
def RefusedWithCmderr (s t : State) : Prop :=
  ∃ code, (code = 1 ∨ code = 2 ∨ code = 3) ∧ t.rspq = s.rspq ++ [errRsp code]

/-- When a transaction sets a flag. -/
def ExecCause (i : Instr) (s t : State) : Flag → Prop
  | .cmderr => (∀ b, i ≠ .feed b) ∧ RefusedWithCmderr s t
  | .txovf => AppendOverflows i s t
  | k => ∃ b, i = .feed b ∧ FeedCause Config.params b s k

theorem execCause_of_feed {b : Byte} {s t : State} : ∀ k, FeedCause Config.params b s k → ExecCause (.feed b) s t k
  | .fmterr, h | .crcerr, h | .short, h | .ovf, h | .altseen, h => ⟨b, rfl, h⟩

/-- R312: codes 1, 2 and 3 set CMDERR. -/
theorem raise_setsOnly {C : Flag → Prop} {e : CmdError} {s : State} (he : setsCmdErr e = true) (hC : C .cmderr) :
    SetsOnly C s.flags (raise e s).flags := by
  rw [raise_flags, he, Bool.or_true]
  exact .set (k := .cmderr) hC

theorem raise_refusedWithCmderr {e : CmdError} (he : setsCmdErr e = true) (s : State) :
    RefusedWithCmderr s (raise e s) := by
  cases e with
  | illegalOpcode => exact ⟨1, .inl rfl, rfl⟩
  | badOperand => exact ⟨2, .inr (.inl rfl), rfl⟩
  | txNotActive => exact ⟨3, .inr (.inr rfl), rfl⟩
  | txOverflow => cases he

theorem txAppend_setsOnly {C : Flag → Prop} {bs : List Byte} {s : State}
    (hC : 65535 < s.txs.length + bs.length → (txAppend bs s).txact = false → (txAppend bs s).txs = [] →
      (txAppend bs s).rspq = s.rspq ++ [errRsp 4] → C .txovf) :
    SetsOnly C s.flags (txAppend bs s).flags := by
  rcases txAppend_cases bs s with ⟨-, e⟩ | ⟨hmax, e⟩ <;> rw [e] at hC ⊢
  · exact .refl
  · rw [raise_flags, setsCmdErr, Bool.or_false]
    exact .set (k := .txovf) (hC hmax rfl rfl rfl)

/-- What a transaction does to the flags: SRST resets them, WRREG to STATUS clears some, and every other one only sets
them. -/
theorem exec_flags {i : Instr} {s t : State} (h : exec i s = .next t) :
    (i = .srst ∧ t.flags = Flags.reset) ∨ (∃ v, i = .wrreg 0 v ∧ t.flags = s.flags.clearBy v) ∨
      SetsOnly (ExecCause i s t) s.flags t.flags := by
  rcases exec_cases h with ⟨b, rfl, rfl⟩ | ⟨-, rfl⟩ | ⟨hi, rfl⟩ | ⟨v, hi, rfl⟩ | ⟨v, -, rfl⟩ | ⟨cmd, -, rfl⟩ |
    ⟨bs, ha, rfl, hi⟩ | ⟨-, -, rfl⟩ | ⟨-, rfl, hi⟩ | ⟨hi, rfl⟩ | ⟨⟨v, rfl⟩, -⟩
  · exact .inr (.inr ((feedByte_setsOnly _ b s).mono execCause_of_feed))
  · exact .inr (.inr .refl)
  · exact .inl ⟨hi, rfl⟩
  · exact .inr (.inl ⟨v, hi, rfl⟩)
  · exact .inr (.inr .refl)
  · exact .inr (.inr .refl)
  · refine .inr (.inr (txAppend_setsOnly fun hmax hact htxs hrsp => ⟨?_, ha, hact, htxs, hrsp⟩))
    rcases hi with ⟨v, hi, rfl⟩ | ⟨b, x, hi, rfl⟩
    · exact .inl ⟨v, hi, hmax⟩
    · exact .inr ⟨b, x, hi, hmax⟩
  · exact .inr (.inr .refl)
  · have hne : ∀ b, i ≠ .feed b := by rcases hi with ⟨_, rfl⟩ | ⟨_, _, rfl⟩ | rfl <;> exact nofun
    exact .inr (.inr (raise_setsOnly rfl ⟨hne, raise_refusedWithCmderr rfl s⟩))
  · have hne : ∀ b, i ≠ .feed b := by
      rintro b rfl
      cases hi
    exact .inr (.inr (raise_setsOnly rfl ⟨hne, raise_refusedWithCmderr rfl s⟩))
  · exact .inr (.inr .refl)

/-! ### Every step -/

/-- When a flag may be cleared (R33). -/
def ClearCause (s : State) (k : Flag) : Prop :=
  NextResets s ∨ ∃ v, NextIs s (.wrreg 0 v) ∧ v.getLsbD k.bitPos = true

/-- When a step sets a flag, as the flag's row of R32 says. -/
def SetCause (s t : State) : Flag → Prop
  | .fmterr => NextIs s (.feed 0xBA) ∧ s.stage = .foot2 ∧ commandOf s.acc = Config.params.screenCmdId ∧
      (s.acc.length < 5 ∨ (s.acc.length - 2) % 3 ≠ 0)
  | .crcerr => NextIs s (.feed 0xBA) ∧ s.stage = .foot2 ∧ s.crcCalc ≠ s.crcRecv
  | .short => NextIs s (.feed 0xBA) ∧ s.stage = .foot2 ∧ s.acc.length < 2
  | .ovf => ∃ b, NextIs s (.feed b) ∧ s.stage = .lenhi ∧
      Config.params.maxPayload < (s.len ||| (b.setWidth 16 <<< 8)).toNat
  | .altseen => ∃ b, NextIs s (.feed b) ∧ s.stage = .idle ∧ Config.params.altSyncByte = some b
  | .cmderr => ∃ w rest code, s.offers = .input (.cmd w) :: rest ∧ (code = 1 ∨ code = 2 ∨ code = 3) ∧
      t.rspq = s.rspq ++ [errRsp code]
  | .txovf => ((∃ v, NextIs s (.txuint v) ∧ 65535 < s.txs.length + (serUint v).length) ∨
        ∃ b x, NextIs s (.txbyte b x) ∧ 65535 < s.txs.length + 1) ∧
      s.txact = true ∧ t.txact = false ∧ t.txs = [] ∧ t.rspq = s.rspq ++ [errRsp 4]

/-- A word of the receive port is accepted as FEED (R87), so what is refused or is no FEED came on the command port. -/
theorem eq_cmd_of_decode_ne_feed {w : PortWord} (h : ∀ b, decode w ≠ .ok (.feed b)) : ∃ c, w = .cmd c := by
  cases w with
  | rx b => exact absurd rfl (h b)
  | cmd c => exact ⟨c, rfl⟩

theorem setCause_cmderr {s t : State} {w : PortWord} {rest : List Offer} (ho : s.offers = .input w :: rest)
    (hw : ∀ b, decode w ≠ .ok (.feed b)) (hr : RefusedWithCmderr s t) : SetCause s t .cmderr := by
  obtain ⟨c, rfl⟩ := eq_cmd_of_decode_ne_feed hw
  obtain ⟨code, hcode, hrsp⟩ := hr
  exact ⟨c, rest, code, ho, hcode, hrsp⟩

theorem setCause_of_exec {s t : State} {w : PortWord} {i : Instr} {rest : List Offer}
    (ho : s.offers = .input w :: rest) (hw : decode w = .ok i) : ∀ k, ExecCause i s t k → SetCause s t k
  | .fmterr, ⟨_, hi, hb, h⟩ => ⟨⟨w, rest, ho, hb ▸ hi ▸ hw⟩, h⟩
  | .crcerr, ⟨_, hi, hb, h⟩ => ⟨⟨w, rest, ho, hb ▸ hi ▸ hw⟩, h⟩
  | .short, ⟨_, hi, hb, h⟩ => ⟨⟨w, rest, ho, hb ▸ hi ▸ hw⟩, h⟩
  | .ovf, ⟨b, hi, h⟩ => ⟨b, ⟨w, rest, ho, hi ▸ hw⟩, h⟩
  | .altseen, ⟨b, hi, h⟩ => ⟨b, ⟨w, rest, ho, hi ▸ hw⟩, h⟩
  | .cmderr, ⟨hi, h⟩ => setCause_cmderr ho (fun b e => hi b (Except.ok.inj (hw.symm.trans e))) h
  | .txovf, ⟨.inl ⟨v, hi, hmax⟩, h⟩ => ⟨.inl ⟨v, ⟨w, rest, ho, hi ▸ hw⟩, hmax⟩, h⟩
  | .txovf, ⟨.inr ⟨b, x, hi, hmax⟩, h⟩ => ⟨.inr ⟨b, x, ⟨w, rest, ho, hi ▸ hw⟩, hmax⟩, h⟩

theorem takeEventByte_flags (s : State) : (takeEventByte s).flags = s.flags := by
  rcases takeEventByte_cases s with ⟨-, e⟩ | ⟨_, _, -, ⟨-, e⟩ | ⟨-, e⟩⟩ <;> rw [e]

/-- What a step does to the flags: a reset, a WRREG to STATUS, or flags set by their rules. -/
theorem step_flags {s t : State} (h : step s = .next t) :
    (NextResets s ∧ t.flags = Flags.reset) ∨ (∃ v, NextIs s (.wrreg 0 v) ∧ t.flags = s.flags.clearBy v) ∨
      SetsOnly (SetCause s t) s.flags t.flags := by
  rcases step_cases h with ⟨-, rfl⟩ | ⟨o, rest, ho, hstep⟩
  · exact .inr (.inr .refl)
  · rcases hstep with ⟨w, i, rfl, hw, hexec⟩ | ⟨w, e, rfl, hw, rfl⟩ | ⟨-, rfl⟩ | ⟨-, rfl⟩ | ⟨-, rfl⟩ | ⟨rfl, rfl⟩
    · rcases exec_flags hexec with ⟨rfl, e⟩ | ⟨v, rfl, e⟩ | hset
      · exact .inl ⟨.inl ⟨w, rest, ho, hw⟩, e⟩
      · exact .inr (.inl ⟨v, ⟨w, rest, ho, hw⟩, e⟩)
      · exact .inr (.inr (hset.mono (setCause_of_exec ho hw)))
    · have he : setsCmdErr e = true := by rcases decode_error hw with rfl | rfl <;> rfl
      exact .inr (.inr (raise_setsOnly (s := { s with offers := rest }) he
        (setCause_cmderr ho (fun b hb => nomatch hw.symm.trans hb) (raise_refusedWithCmderr he _))))
    · exact .inr (.inr .refl)
    · rw [takeEventByte_flags]
      exact .inr (.inr .refl)
    · exact .inr (.inr .refl)
    · exact .inl ⟨.inr (by rw [ho]; rfl), rfl⟩

theorem step_clears_flag {s t : State} (h : step s = .next t) (k : Flag) (h1 : k.get s.flags = true)
    (h0 : k.get t.flags = false) : ClearCause s k := by
  rcases step_flags h with ⟨hr, -⟩ | ⟨v, hi, e⟩ | hset
  · exact .inl hr
  · rw [e, get_clearBy, h1, Bool.true_and, Bool.not_eq_false'] at h0
    exact .inr ⟨v, hi, h0⟩
  · exact nomatch h0.symm.trans ((hset k).1 h1)

theorem step_sets_flag {s t : State} (h : step s = .next t) (k : Flag) (h0 : k.get s.flags = false)
    (h1 : k.get t.flags = true) : SetCause s t k := by
  rcases step_flags h with ⟨-, e⟩ | ⟨v, -, e⟩ | hset
  · rw [e, get_reset] at h1
    cases h1
  · rw [e, get_clearBy, h0, Bool.false_and] at h1
    cases h1
  · exact (hset k).2 h0 h1

/-- Settles O56: the two directions above, flag by flag. -/
theorem stickyFlagsDiscipline : Obligations.StickyFlagsDiscipline := by
  intro s t h
  have hclear := step_clears_flag h
  have hset := step_sets_flag h
  exact ⟨⟨hclear .fmterr, hclear .crcerr, hclear .short, hclear .ovf, hclear .altseen, hclear .cmderr, hclear .txovf⟩,
    hset .fmterr, hset .crcerr, hset .short, hset .ovf, hset .altseen, hset .cmderr, hset .txovf⟩

end Sys2Proof.Proofs

/-! What a step does to the offers, the output ports and the bitmap (20_memory.md R61, R69, R72, R73). -/

namespace Sys2Proof.Proofs

open Sys2Proof.Machine Sys2Proof.Claims

/-! ### One offer per step (R72, R73) -/

theorem txAppend_offers (bs : List Byte) (s : State) : (txAppend bs s).offers = s.offers := by
  rcases txAppend_cases bs s with ⟨-, e⟩ | ⟨-, e⟩ <;> rw [e] <;> rfl

theorem takeEventByte_offers (s : State) : (takeEventByte s).offers = s.offers := by
  rcases takeEventByte_cases s with ⟨-, e⟩ | ⟨_, _, -, ⟨-, e⟩ | ⟨-, e⟩⟩ <;> rw [e]

/-- The offers belong to the agents: no transaction writes them. -/
theorem exec_offers {i : Instr} {s t : State} (h : exec i s = .next t) : t.offers = s.offers := by
  rcases exec_cases h with ⟨b, -, rfl⟩ | ⟨-, rfl⟩ | ⟨-, rfl⟩ | ⟨v, -, rfl⟩ | ⟨v, -, rfl⟩ | ⟨cmd, -, rfl⟩ |
    ⟨bs, -, rfl, -⟩ | ⟨-, -, rfl⟩ | ⟨-, rfl, -⟩ | ⟨-, rfl⟩ | ⟨⟨v, rfl⟩, -⟩
  · obtain ⟨-, -, -, -, -, -, hoffers⟩ := feedByte_keeps Config.params b s
    exact hoffers
  · rfl
  · rfl
  · rfl
  · rfl
  · rfl
  · exact txAppend_offers bs s
  · rfl
  · rfl
  · rfl
  · rfl

/-- R327: with nothing offered the engine holds its state. -/
theorem step_of_no_offer {s : State} (h : s.offers = []) : step s = .next s := by
  simp only [step, nextOffer, h]

theorem step_offers {s t : State} (h : step s = .next t) : t.offers = s.offers.tail := by
  rcases step_cases h with ⟨ho, rfl⟩ | ⟨o, rest, ho, hstep⟩ <;> rw [ho]
  · rfl
  · rcases hstep with ⟨w, i, -, -, hexec⟩ | ⟨w, e, -, -, rfl⟩ | ⟨-, rfl⟩ | ⟨-, rfl⟩ | ⟨-, rfl⟩ | ⟨-, rfl⟩
    · exact exec_offers hexec
    · rfl
    · rfl
    · exact takeEventByte_offers _
    · rfl
    · rfl

/-- Settles O8. -/
theorem stepUsesUpOneOffer : Obligations.StepUsesUpOneOffer :=
  ⟨fun _ => step_of_no_offer, fun _ _ => step_offers⟩

/-! ### The output ports (R95, R100, R104) -/

section
variable {s : State}

theorem step_of_evtReady {rest : List Offer} (h : s.offers = .evtReady :: rest) :
    step s = .next (takeEventByte { s with offers := rest }) := by
  simp only [step, nextOffer, h]

/-- R104, and nothing moves where `TXQ` is empty (R108). -/
theorem step_of_txReady {rest : List Offer} (h : s.offers = .txReady :: rest) :
    step s = .next { s with offers := rest, txq := s.txq.tail } := by
  simp only [step, nextOffer, h, takeTxByte]

/-- R95, and nothing moves where no response waits (R108). -/
theorem step_of_rspReady {rest : List Offer} (h : s.offers = .rspReady :: rest) :
    step s = .next { s with offers := rest, rspq := s.rspq.tail } := by
  simp only [step, nextOffer, h, takeResponse]

theorem evtOut_of_nil (h : s.evq = []) : evtOut s = none := by
  simp only [evtOut, h]

theorem evtOut_of_cons {e : Event} {q : List Event} (h : s.evq = e :: q) : evtOut s = e.record[s.evtPos]? := by
  simp only [evtOut, h]

theorem takeEventByte_of_nil (h : s.evq = []) : takeEventByte s = s := by
  simp only [takeEventByte, h]

/-- R100: before the record's last byte, only the position moves. -/
theorem takeEventByte_of_lt {e : Event} {q : List Event} (h : s.evq = e :: q) (hp : s.evtPos + 1 < e.record.length) :
    takeEventByte s = { s with evtPos := s.evtPos + 1 } := by
  simp only [takeEventByte, h, if_pos hp]

/-- R100: the event goes with its record's last byte. -/
theorem takeEventByte_of_le {e : Event} {q : List Event} (h : s.evq = e :: q) (hp : e.record.length ≤ s.evtPos + 1) :
    takeEventByte s = { s with evq := q, evtPos := 0 } := by
  simp only [takeEventByte, h, if_neg (Nat.not_lt.2 hp)]

end

/-- Settles O46, a clause per port and form of its queue: what the port shows, and the step as the port's transfer. -/
theorem outputPortsDrainOnly : Obligations.OutputPortsDrainOnly := by
  refine ⟨?_, ?_, ?_, ?_, ?_, ?_, ?_⟩
  · intro s rest ho hq
    exact ⟨evtOut_of_nil hq, (step_of_evtReady ho).trans (congrArg _ (takeEventByte_of_nil hq))⟩
  · intro s rest e q ho hq hp
    exact ⟨evtOut_of_cons hq, (step_of_evtReady ho).trans (congrArg _ (takeEventByte_of_lt hq hp))⟩
  · intro s rest e q ho hq hp
    exact ⟨evtOut_of_cons hq, (step_of_evtReady ho).trans (congrArg _ (takeEventByte_of_le hq hp))⟩
  · intro s rest b q ho hq
    exact ⟨by rw [txOut, hq, List.head?_cons], by rw [step_of_txReady ho, hq, List.tail_cons]⟩
  · intro s rest ho hq
    exact ⟨by rw [txOut, hq, List.head?_nil], by rw [step_of_txReady ho, hq, List.tail_nil]⟩
  · intro s rest v q ho hq
    exact ⟨by rw [rspOut, hq, List.head?_cons], by rw [step_of_rspReady ho, hq, List.tail_cons]⟩
  · intro s rest ho hq
    exact ⟨by rw [rspOut, hq, List.head?_nil], by rw [step_of_rspReady ho, hq, List.tail_nil]⟩

/-! ### What writes the bitmap (R61) -/

/-- From `s` to `t` the accumulator's screen frame was dispatched (R162, R240, R242, R247). -/
def DispatchesScreen (p : Params) (s t : State) : Prop :=
  s.stage = .foot2 ∧ commandOf s.acc = p.screenCmdId ∧ 5 ≤ s.acc.length ∧ (s.acc.length - 2) % 3 = 0 ∧
    t.evq.getLast? = some .bitmapChanged ∧ t.bm = screenApply (s.acc.getD 4 0) (s.acc.drop 5) s.bm

/-- R242, for the args of an accumulator. -/
theorem length_of_screenFormat_ok {acc : List Byte} (h : screenFormatOk (acc.drop 2) = true) :
    5 ≤ acc.length ∧ (acc.length - 2) % 3 = 0 := by
  simp [screenFormatOk] at h
  omega

/-- R240: the screen decoder writes the bitmap only where the format check passes, and then says so. -/
theorem screenDispatch_bm (args : List Byte) (s : State) :
    (screenDispatch args s).bm = s.bm ∨
    (screenFormatOk args = true ∧ (screenDispatch args s).evq.getLast? = some .bitmapChanged ∧
      (screenDispatch args s).bm = screenApply (args.getD 2 0) (args.drop 3) s.bm) := by
  rcases screenDispatch_cases args s with ⟨hfmt, e⟩ | ⟨-, e⟩ <;> rw [e]
  · exact .inr ⟨hfmt, List.getLast?_concat, rfl⟩
  · exact .inl rfl

theorem complete_bm (p : Params) (ok : Bool) {s : State} (hst : s.stage = .foot2) :
    (complete p ok s).bm = s.bm ∨ DispatchesScreen p s (complete p ok s) := by
  rw [complete_eq]
  split
  · next hcmd =>
    refine (screenDispatch_bm (s.acc.drop 2) (emit (frameEvent ok s) s)).imp id fun ⟨hfmt, hlast, hbm⟩ => ?_
    obtain ⟨hlen, hmod⟩ := length_of_screenFormat_ok hfmt
    rw [List.drop_drop, List.getD_eq_getElem?_getD, List.getElem?_drop, ← List.getD_eq_getElem?_getD] at hbm
    exact ⟨hst, hcmd, hlen, hmod, hlast, hbm⟩
  · exact .inl rfl

theorem feedFoot2_bm (p : Params) (b : Byte) {s : State} (hst : s.stage = .foot2) :
    (feedFoot2 p b s).bm = s.bm ∨ (b = 0xBA ∧ DispatchesScreen p s (feedFoot2 p b s)) := by
  rcases feedFoot2_cases p b s with ⟨-, e⟩ | ⟨-, -, e⟩ | ⟨-, -, -, -, e⟩ | ⟨hb, -, -, e⟩ <;> rw [e]
  · exact .inl rfl
  · exact .inl rfl
  · exact .inl rfl
  · exact (complete_bm p _ (s := reported s) hst).imp id fun hdisp => ⟨hb, hdisp⟩

/-- Before FOOT2, FEED leaves every pixel. -/
theorem feedByte_bm_of_ne_foot2 (p : Params) (b : Byte) {s : State} (h : s.stage ≠ .foot2) :
    (feedByte p b s).bm = s.bm := by
  unfold feedByte
  cases hst : s.stage <;> dsimp only
  case idle =>
    unfold feedIdle
    split
    · rfl
    · split <;> rfl
  case sync2 =>
    unfold feedSync2
    split <;> rfl
  case lenhi =>
    unfold feedLenhi
    dsimp only
    split
    · rfl
    · split <;> rfl
  case foot1 =>
    unfold feedFoot1
    split <;> rfl
  case foot2 => exact absurd hst h
  all_goals rfl

theorem feedByte_bm (p : Params) (b : Byte) (s : State) :
    (feedByte p b s).bm = s.bm ∨ (b = 0xBA ∧ DispatchesScreen p s (feedByte p b s)) := by
  by_cases hst : s.stage = .foot2
  · have e : feedByte p b s = feedFoot2 p b s := by simp only [feedByte, hst]
    rw [e]
    exact feedFoot2_bm p b hst
  · exact .inl (feedByte_bm_of_ne_foot2 p b hst)

theorem txAppend_bm (bs : List Byte) (s : State) : (txAppend bs s).bm = s.bm := by
  rcases txAppend_cases bs s with ⟨-, e⟩ | ⟨-, e⟩ <;> rw [e] <;> rfl

theorem takeEventByte_bm (s : State) : (takeEventByte s).bm = s.bm := by
  rcases takeEventByte_cases s with ⟨-, e⟩ | ⟨_, _, -, ⟨-, e⟩ | ⟨-, e⟩⟩ <;> rw [e]

/-- R61, for a transaction: SRST and the FEED that completes a screen frame are the only writers of the bitmap. -/
theorem exec_bm {i : Instr} {s t : State} (h : exec i s = .next t) :
    t.bm = s.bm ∨ i = .srst ∨ (i = .feed 0xBA ∧ DispatchesScreen Config.params s t) := by
  rcases exec_cases h with ⟨b, rfl, rfl⟩ | ⟨-, rfl⟩ | ⟨hi, -⟩ | ⟨v, -, rfl⟩ | ⟨v, -, rfl⟩ | ⟨cmd, -, rfl⟩ |
    ⟨bs, -, rfl, -⟩ | ⟨-, -, rfl⟩ | ⟨-, rfl, -⟩ | ⟨-, rfl⟩ | ⟨⟨v, rfl⟩, -⟩
  · exact (feedByte_bm Config.params b s).imp id fun ⟨hb, hdisp⟩ => .inr ⟨by rw [hb], hdisp⟩
  · exact .inl rfl
  · exact .inr (.inl hi)
  · exact .inl rfl
  · exact .inl rfl
  · exact .inl rfl
  · exact .inl (txAppend_bm bs s)
  · exact .inl rfl
  · exact .inl rfl
  · exact .inl rfl
  · exact .inl rfl

/-- R61, for a step. -/
theorem step_bm {s t : State} (h : step s = .next t) :
    t.bm = s.bm ∨ NextResets s ∨ (NextIs s (.feed 0xBA) ∧ DispatchesScreen Config.params s t) := by
  rcases step_cases h with ⟨-, rfl⟩ | ⟨o, rest, ho, hstep⟩
  · exact .inl rfl
  · rcases hstep with ⟨w, i, rfl, hw, hexec⟩ | ⟨w, e, -, -, rfl⟩ | ⟨-, rfl⟩ | ⟨-, rfl⟩ | ⟨-, rfl⟩ | ⟨rfl, -⟩
    · rcases exec_bm hexec with hbm | rfl | ⟨rfl, hdisp⟩
      · exact .inl hbm
      · exact .inr (.inl (.inl ⟨w, rest, ho, hw⟩))
      · exact .inr (.inr ⟨⟨w, rest, ho, hw⟩, hdisp⟩)
    · exact .inl rfl
    · exact .inl rfl
    · exact .inl (takeEventByte_bm _)
    · exact .inl rfl
    · exact .inr (.inl (.inr (by rw [ho]; rfl)))

/-- Settles O57: the step's three cases, with the dispatch written out. -/
theorem bitmapWrittenOnlyByScreenFrame : Obligations.BitmapWrittenOnlyByScreenFrame :=
  fun _ _ h => step_bm h

end Sys2Proof.Proofs

/-! The fields of a command word, what decoding and encoding do with them, and the refused words (30_encoding.md R89 to
R93, R106; 60_exceptions.md R312, R313). -/

namespace Sys2Proof.Proofs

open Sys2Proof.Machine Sys2Proof.Claims

/-! ### Fields packed into a 32-bit operand (R91) -/

/-- The bits of an operand field from position `k` on are 0. -/
def ZeroFrom (k : Nat) (a : Word) : Prop := ∀ i, k ≤ i → a.getLsbD i = false

/-- A reserved-zero mask of R91 is a run of ones from some bit up. -/
theorem zeroFrom_of_mask (k : Nat) {a : Word} (h : a &&& (BitVec.allOnes 32 <<< k) = 0) : ZeroFrom k a := by
  intro i hi
  by_cases h32 : i < 32
  · have hbit := congrArg (BitVec.getLsbD · i) h
    have hones : (BitVec.allOnes 32 <<< k).getLsbD i = true := by
      rw [BitVec.getLsbD_shiftLeft, BitVec.getLsbD_allOnes]
      simp [h32, Nat.not_lt.2 hi, Nat.sub_lt_of_lt h32]
    simpa only [BitVec.getLsbD_and, hones, Bool.and_true, BitVec.ofNat_eq_ofNat, BitVec.getLsbD_zero] using hbit
  · exact BitVec.getLsbD_of_ge a i (Nat.not_lt.1 h32)

theorem zero_of_mask {a : Word} (h : a &&& 0xFFFFFFFF = 0) : 0 = a := (BitVec.and_allOnes.symm.trans h).symm

/-- An operand with one field at bit 0 is that field. -/
theorem setWidth_extract_low {k : Nat} {a : Word} (h : ZeroFrom k a) : (a.extractLsb' 0 k).setWidth 32 = a := by
  apply BitVec.eq_of_getLsbD_eq
  intro i hi
  by_cases hk : i < k
  · simp [hi, hk]
  · simp [hk, h i (Nat.not_lt.1 hk)]

/-- An operand with an 8-bit field at bit 0 and a field of `n` bits above it is these two fields. -/
theorem join_extract {n : Nat} {a : Word} (h : ZeroFrom (8 + n) a) :
    ((a.extractLsb' 8 n).setWidth 32 <<< 8) ||| (a.extractLsb' 0 8).setWidth 32 = a := by
  apply BitVec.eq_of_getLsbD_eq
  intro i hi
  by_cases h8 : i < 8
  · simp [hi, h8]
  · have e : 8 + (i - 8) = i := by omega
    by_cases hn : i - 8 < n
    · simp [hi, h8, hn, e]
    · simp [h8, hn, h i (by omega)]

/-- The number that two packed fields write. -/
theorem toNat_join {n : Nat} (hn : n ≤ 24) (x : BitVec n) (b : Byte) :
    ((x.setWidth 32 <<< 8) ||| b.setWidth 32 : Word).toNat = x.toNat * 2 ^ 8 + b.toNat := by
  have hx : x.toNat < 2 ^ 24 := x.isLt.trans_le (Nat.pow_le_pow_right (by decide) hn)
  have hb : b.toNat < 2 ^ 8 := b.isLt
  have hx' : x.toNat % 2 ^ 32 = x.toNat := Nat.mod_eq_of_lt (hx.trans (by decide))
  have hb' : b.toNat % 2 ^ 32 = b.toNat := Nat.mod_eq_of_lt (hb.trans (by decide))
  have hs : (x.toNat <<< 8) % 2 ^ 32 = x.toNat <<< 8 := by
    rw [Nat.shiftLeft_eq]
    exact Nat.mod_eq_of_lt (by omega)
  rw [BitVec.toNat_or, BitVec.toNat_shiftLeft, BitVec.toNat_setWidth, BitVec.toNat_setWidth, hx', hb', hs,
    ← Nat.shiftLeft_add_eq_or_of_lt hb, Nat.shiftLeft_eq]

/-- R106: a command word as the number `op · 2^32 + A`. -/
theorem cmdWord_eq_ofNat (op : Byte) (a : Word) : cmdWord op a = BitVec.ofNat 40 (op.toNat * 2 ^ 32 + a.toNat) := by
  apply BitVec.eq_of_toNat_eq
  rw [← append_eq_cmdWord, BitVec.toNat_ofNat, BitVec.toNat_append, ← Nat.shiftLeft_add_eq_or_of_lt a.isLt,
    Nat.shiftLeft_eq]
  exact (Nat.mod_eq_of_lt (by omega)).symm

theorem cmdWord_join_eq_ofNat (op : Byte) {n : Nat} (hn : n ≤ 24) (x : BitVec n) (b : Byte) :
    cmdWord op ((x.setWidth 32 <<< 8) ||| b.setWidth 32) =
      BitVec.ofNat 40 (op.toNat * 2 ^ 32 + x.toNat * 2 ^ 8 + b.toNat) := by
  rw [cmdWord_eq_ofNat, toNat_join hn, Nat.add_assoc]

theorem cmdWord_low_eq_ofNat (op : Byte) {n : Nat} (hn : n ≤ 32) (x : BitVec n) :
    cmdWord op (x.setWidth 32) = BitVec.ofNat 40 (op.toNat * 2 ^ 32 + x.toNat) := by
  rw [cmdWord_eq_ofNat, BitVec.toNat_setWidth_of_le hn]

/-! ### Decoding what the encoder writes, and back -/

theorem decode_cmdWord {op : Byte} {o : Opcode} {a : Word} {i : Instr} (ho : opcodeOf op = some o)
    (hm : a &&& reservedMask o = 0) (hi : operandsOf o a = i) : decode (.cmd (cmdWord op a)) = .ok i := by
  rw [decode, decodeCmd_assigned ho, if_pos hm, hi]

/-- Settles O1, row by row of R91: the fields are read back from where the encoder puts them. -/
theorem decodeOfEncode : Obligations.DecodeOfEncode := by
  intro i
  cases i with
  | feed b => rfl
  | nop => exact decode_cmdWord (o := .nop) rfl rfl rfl
  | prst => exact decode_cmdWord (o := .prst) rfl rfl rfl
  | srst => exact decode_cmdWord (o := .srst) rfl rfl rfl
  | rdreg reg =>
    obtain ⟨hreg, hmask⟩ := fields8 reg
    exact decode_cmdWord (o := .rdreg) rfl hmask (congrArg Instr.rdreg hreg)
  | wrreg reg value =>
    obtain ⟨hreg, hvalue, hmask⟩ := fields16_8 value reg
    exact decode_cmdWord (o := .wrreg) rfl hmask (congrArg₂ Instr.wrreg hreg hvalue)
  | txbegin cmd =>
    obtain ⟨hcmd, hmask⟩ := fields16 cmd
    exact decode_cmdWord (o := .txbegin) rfl hmask (congrArg Instr.txbegin hcmd)
  | txuint v => exact decode_cmdWord (o := .txuint) rfl BitVec.and_zero rfl
  | txbyte b ignored =>
    obtain ⟨hb, hignored⟩ := fields24_8 ignored b
    exact decode_cmdWord (o := .txbyte) rfl BitVec.and_zero (congrArg₂ Instr.txbyte hb hignored)
  | txend => exact decode_cmdWord (o := .txend) rfl rfl rfl
  | bmrd col group =>
    obtain ⟨hcol, hgroup, hmask⟩ := fields8_8 group col
    exact decode_cmdWord (o := .bmrd) rfl hmask (congrArg₂ Instr.bmrd hcol hgroup)
  | ciph b pos =>
    obtain ⟨hb, hpos, hmask⟩ := fields16_8 pos b
    exact decode_cmdWord (o := .ciph) rfl hmask (congrArg₂ Instr.ciph hb hpos)
  | crcu b crc =>
    obtain ⟨hb, hcrc, hmask⟩ := fields16_8 crc b
    exact decode_cmdWord (o := .crcu) rfl hmask (congrArg₂ Instr.crcu hb hcrc)

/-- The byte that names an opcode (R90). -/
def opcodeByte : Opcode → Byte
  | .nop => 0x00
  | .prst => 0x01
  | .srst => 0x02
  | .rdreg => 0x08
  | .wrreg => 0x09
  | .txbegin => 0x10
  | .txuint => 0x11
  | .txbyte => 0x12
  | .txend => 0x13
  | .bmrd => 0x20
  | .ciph => 0x30
  | .crcu => 0x31

/-- Each opcode has one byte. -/
theorem eq_opcodeByte {op : Byte} {o : Opcode} (h : opcodeOf op = some o) : op = opcodeByte o := by
  have hrows : ∀ row ∈ opcodeMap, row.1 = opcodeByte row.2 := by decide
  exact hrows _ (opcodeOf_mem h)

theorem cmd_congr {op : Byte} {a b : Word} (h : a = b) : PortWord.cmd (cmdWord op a) = .cmd (cmdWord op b) :=
  congrArg _ (congrArg _ h)

/-- The encoder puts back the fields that the decoder reads, and 0 in the bits that the decoder checks to be 0. -/
theorem encode_operandsOf {o : Opcode} {a : Word} (h : a &&& reservedMask o = 0) :
    encode (operandsOf o a) = .cmd (cmdWord (opcodeByte o) a) := by
  cases o with
  | nop => exact cmd_congr (zero_of_mask h)
  | prst => exact cmd_congr (zero_of_mask h)
  | srst => exact cmd_congr (zero_of_mask h)
  | rdreg => exact cmd_congr (setWidth_extract_low (zeroFrom_of_mask 8 h))
  | wrreg => exact cmd_congr (join_extract (zeroFrom_of_mask 24 h))
  | txbegin => exact cmd_congr (setWidth_extract_low (zeroFrom_of_mask 16 h))
  | txuint => rfl
  | txbyte => exact cmd_congr (join_extract fun i hi => BitVec.getLsbD_of_ge a i hi)
  | txend => exact cmd_congr (zero_of_mask h)
  | bmrd => exact cmd_congr (join_extract (zeroFrom_of_mask 16 h))
  | ciph => exact cmd_congr (join_extract (zeroFrom_of_mask 24 h))
  | crcu => exact cmd_congr (join_extract (zeroFrom_of_mask 24 h))

/-- Settles O2. -/
theorem encodeOfDecode : Obligations.EncodeOfDecode := by
  intro w i h
  cases w with
  | rx b =>
    cases h
    rfl
  | cmd w =>
    obtain ⟨o, ho, hmask, rfl⟩ := decodeCmd_ok h
    rw [encode_operandsOf hmask, ← eq_opcodeByte ho, cmdWord_fields]

/-- Settles O3: the three forms of an operand field, none, one field, and two. -/
theorem encodedWordNumbers : Obligations.EncodedWordNumbers :=
  ⟨fun _ => rfl, rfl, rfl, rfl,
    fun r => congrArg PortWord.cmd (cmdWord_low_eq_ofNat 0x08 (by decide) r),
    fun r v => congrArg PortWord.cmd (cmdWord_join_eq_ofNat 0x09 (by decide) v r),
    fun c => congrArg PortWord.cmd (cmdWord_low_eq_ofNat 0x10 (by decide) c),
    fun v => congrArg PortWord.cmd (cmdWord_eq_ofNat 0x11 v),
    fun b x => congrArg PortWord.cmd (cmdWord_join_eq_ofNat 0x12 (by decide) x b),
    rfl,
    fun c g => congrArg PortWord.cmd (cmdWord_join_eq_ofNat 0x20 (by decide) g c),
    fun b q => congrArg PortWord.cmd (cmdWord_join_eq_ofNat 0x30 (by decide) q b),
    fun b c => congrArg PortWord.cmd (cmdWord_join_eq_ofNat 0x31 (by decide) c b)⟩

/-- Settles O4: an accepted word is the encoder's word for the instruction printed beside it. -/
theorem printedWordsDecode : Obligations.PrintedWordsDecode :=
  ⟨decodeOfEncode (.feed 0xAB), decodeOfEncode .nop, decodeOfEncode .prst, decodeOfEncode .srst,
    decodeOfEncode (.rdreg 0x06), decodeOfEncode (.wrreg 0x00 0x0200), decodeOfEncode (.txbegin 0x0801),
    decodeOfEncode (.txuint 19), decodeOfEncode (.txbyte 0x13 0x000001), decodeOfEncode .txend,
    decodeOfEncode (.bmrd 127 7), decodeOfEncode (.ciph 0x00 0xFFFF), decodeOfEncode (.crcu 0xFF 0xFFFF), rfl, rfl⟩

/-! ### Refused command words (R92, R93) -/

/-- R313: a refused word raises its error and does nothing else. -/
theorem step_of_decode_error {s : State} {w : PortWord} {rest : List Offer} {e : CmdError}
    (ho : s.offers = .input w :: rest) (hd : decode w = .error e) :
    step s = .next (raise e { s with offers := rest }) := by
  simp only [step, nextOffer, ho, hd]

/-- R312, for the codes that set `CMDERR`. -/
theorem raise_eq_refusedWith {e : CmdError} (he : setsCmdErr e = true) (s : State) :
    raise e s = refusedWith (errorCode e).toNat s := by
  simp only [raise, refusedWith, errRsp, he, Bool.or_true, BitVec.ofNat_toNat]

theorem decode_wordOf_unassigned {op : Byte} (h : opcodeOf op = none) (a : Word) :
    decode (wordOf op a) = .error .illegalOpcode := by
  rw [wordOf, append_eq_cmdWord, decode, decodeCmd_cmdWord, h]

theorem decode_wordOf_reserved {op : Byte} {o : Opcode} (h : opcodeOf op = some o) {a : Word}
    (hm : a &&& reservedMask o ≠ 0) : decode (wordOf op a) = .error .badOperand := by
  rw [wordOf, append_eq_cmdWord, decode, decodeCmd_assigned h, if_neg hm]

/-- R92's ranges are unassigned. -/
theorem opcodeOf_unassigned {op : Byte}
    (h : (0x03 ≤ op.toNat ∧ op.toNat ≤ 0x07) ∨ (0x0A ≤ op.toNat ∧ op.toNat ≤ 0x0F) ∨
      (0x14 ≤ op.toNat ∧ op.toNat ≤ 0x1F) ∨ (0x21 ≤ op.toNat ∧ op.toNat ≤ 0x2F) ∨ 0x32 ≤ op.toNat) :
    opcodeOf op = none := by
  cases ho : opcodeOf op with
  | none => rfl
  | some o =>
    have hop := eq_opcodeByte ho
    subst hop
    cases o <;> simp [opcodeByte] at h

/-- R91's mask column is the decoder's. -/
theorem reservedColumn_mask {op : Byte} {mask : Word} (h : (op, mask) ∈ reservedColumn) :
    ∃ o, opcodeOf op = some o ∧ reservedMask o = mask := by
  have hrows : reservedColumn.map (fun row => (opcodeOf row.1).map reservedMask) =
      reservedColumn.map (fun row => some row.2) := rfl
  exact Option.map_eq_some_iff.1 (List.map_inj_left.1 hrows _ h)

/-- Settles O5. -/
theorem unassignedOpcodeRefused : Obligations.UnassignedOpcodeRefused := by
  intro s rest op a hrange ho
  rw [step_of_decode_error ho (decode_wordOf_unassigned (opcodeOf_unassigned hrange) a), raise_eq_refusedWith rfl]
  rfl

/-- Settles O6. -/
theorem reservedBitsRefused : Obligations.ReservedBitsRefused := by
  intro s rest op mask a hrow ha ho
  obtain ⟨o, hop, rfl⟩ := reservedColumn_mask hrow
  rw [step_of_decode_error ho (decode_wordOf_reserved hop ha), raise_eq_refusedWith rfl]
  rfl

end Sys2Proof.Proofs

/-! The byte layout of wire frames and event records, by offset, and how a record leaves the event port (20_memory.md
R63; 30_encoding.md R82, R84, R100 to R102; 40_cipher_crc.md R127). -/

namespace Sys2Proof.Proofs

open Sys2Proof.Machine Sys2Proof.Claims

/-! ### A list of bytes as header, body and trailer -/

section
variable (h m t : List Byte)

theorem getD_header {i : Nat} (hi : i < h.length) : (h ++ (m ++ t)).getD i 0 = h.getD i 0 :=
  List.getD_append _ _ _ _ hi

theorem getD_body {i : Nat} (hi : i < m.length) : (h ++ (m ++ t)).getD (h.length + i) 0 = m.getD i 0 := by
  rw [List.getD_append_right _ _ _ _ (Nat.le_add_right _ _), Nat.add_sub_cancel_left, List.getD_append _ _ _ _ hi]

theorem getD_trailer {i : Nat} (j : Nat) (hi : i = h.length + (m.length + j)) :
    (h ++ (m ++ t)).getD i 0 = t.getD j 0 := by
  rw [hi, List.getD_append_right _ _ _ _ (Nat.le_add_right _ _), Nat.add_sub_cancel_left,
    List.getD_append_right _ _ _ _ (Nat.le_add_right _ _), Nat.add_sub_cancel_left]

end

/-! ### The two bytes of a 16-bit value (R63) -/

theorem lowByte_eq (v : U16) : lowByte v = BitVec.ofNat 8 v.toNat := rfl

theorem highByte_eq (v : U16) : highByte v = BitVec.ofNat 8 (v.toNat / 256) := by
  rw [highByte, BitVec.extractLsb', Nat.shiftRight_eq_div_pow]

theorem lowByte_ofNat (n : Nat) : lowByte (BitVec.ofNat 16 n) = BitVec.ofNat 8 n := by
  apply BitVec.eq_of_toNat_eq
  simp only [lowByte_eq, BitVec.toNat_ofNat]
  omega

theorem highByte_ofNat (n : Nat) : highByte (BitVec.ofNat 16 n) = BitVec.ofNat 8 (n / 256) := by
  apply BitVec.eq_of_toNat_eq
  simp only [highByte_eq, BitVec.toNat_ofNat]
  omega

/-! ### The ciphered region (R31, R127) -/

theorem keyByte_eq_keyTable (i : Nat) : keyByte i = keyTable.getD (i % 16) 0 := by
  have htable : ∀ k : Fin 16, key[k] = keyTable.getD k 0 := by decide
  exact htable ⟨i % 16, Nat.mod_lt i (by decide)⟩

theorem cipherByte_eq_keyTable (b : Byte) (i : Nat) : cipherByte b i = b ^^^ keyTable.getD (i % 16) 0 := by
  rw [cipherByte, keyByte_eq_keyTable]

theorem length_cipherFrom (P : List Byte) : ∀ p, (cipherFrom p P).length = P.length := by
  induction P with
  | nil => exact fun _ => rfl
  | cons b P ih => exact fun p => congrArg Nat.succ (ih (p + 1))

/-- R127: each byte is ciphered at its own position. -/
theorem getD_cipherFrom {P : List Byte} :
    ∀ {p i : Nat}, i < P.length → (cipherFrom p P).getD i 0 = cipherByte (P.getD i 0) (p + i) := by
  induction P with
  | nil => exact fun h => absurd h (Nat.not_lt_zero _)
  | cons b P ih =>
    intro p i h
    cases i with
    | zero => rfl
    | succ i =>
      rw [cipherFrom, List.getD_cons_succ, List.getD_cons_succ, ih (Nat.lt_of_succ_lt_succ h), Nat.add_right_comm,
        Nat.add_assoc]

/-! ### The wire frame (R81, R82, R84, R201) -/

def frameHeader (n : Nat) : List Byte := [0xAB, 0xCD, BitVec.ofNat 8 n, BitVec.ofNat 8 (n / 256)]

def frameTrailer (n : Nat) (c : U16) : List Byte :=
  [cipherByte (lowByte c) n, cipherByte (highByte c) (n + 1), 0xDC, 0xBA]

theorem encodeFrame_eq (P : List Byte) :
    encodeFrame P = frameHeader P.length ++ (cipherFrom 0 P ++ frameTrailer P.length (crcSeq 0 P)) := by
  simp only [encodeFrame, frameHeader, frameTrailer, lowByte_ofNat, highByte_ofNat, List.append_assoc,
    List.cons_append, List.nil_append]

theorem length_encodeFrame (P : List Byte) : (encodeFrame P).length = P.length + 8 := by
  simp only [encodeFrame_eq, List.length_append, length_cipherFrom, frameHeader, frameTrailer, List.length_cons,
    List.length_nil]
  omega

/-- Settles O24: the offsets of the header, the ciphered payload and the trailer. -/
theorem wireFrameLayout : Obligations.WireFrameLayout := by
  intro P _
  dsimp only
  have header {i : Nat} (hi : i < 4) : (encodeFrame P).getD i 0 = (frameHeader P.length).getD i 0 := by
    rw [encodeFrame_eq, getD_header _ _ _ hi]
  have trailer {i : Nat} (j : Nat) (hi : i = 4 + (P.length + j)) :
      (encodeFrame P).getD i 0 = (frameTrailer P.length (crcSeq 0 P)).getD j 0 := by
    rw [encodeFrame_eq, getD_trailer _ _ _ j (by rw [length_cipherFrom]; exact hi)]
  refine ⟨length_encodeFrame P, header (by decide), header (by decide), header (by decide), header (by decide), ?_,
    ?_, ?_, trailer 2 (by omega), trailer 3 (by omega)⟩
  · intro i hi
    calc (encodeFrame P).getD (4 + i) 0 = (cipherFrom 0 P).getD i 0 := by
          rw [encodeFrame_eq]
          exact getD_body (frameHeader _) _ _ (by rwa [length_cipherFrom])
      _ = P.getD i 0 ^^^ keyTable.getD (i % 16) 0 := by
          rw [getD_cipherFrom hi, cipherByte_eq_keyTable, Nat.zero_add]
  · rw [trailer 0 (by omega), ← lowByte_eq, ← cipherByte_eq_keyTable]
    rfl
  · rw [trailer 1 (by omega), ← highByte_eq, ← cipherByte_eq_keyTable]
    rfl

/-! ### The event records (R101, R102) -/

def recordHeader (cmd : U16) (n : Nat) : List Byte :=
  [0x01, lowByte cmd, highByte cmd, BitVec.ofNat 8 n, BitVec.ofNat 8 (n / 256)]

def recordTrailer (crcCalc crcRecv : U16) (ok : Bool) : List Byte :=
  [lowByte crcCalc, highByte crcCalc, lowByte crcRecv, highByte crcRecv, if ok then 0x01 else 0x00]

theorem record_frame_eq (cmd : U16) (args : List Byte) (crcCalc crcRecv : U16) (ok : Bool) :
    (Event.frame cmd args crcCalc crcRecv ok).record =
      recordHeader cmd args.length ++ (args ++ recordTrailer crcCalc crcRecv ok) := by
  simp only [Event.record, recordHeader, recordTrailer, bytesOf16, lowByte_ofNat, highByte_ofNat, List.append_assoc,
    List.cons_append, List.nil_append]

/-- R101, R102: a record begins with the number of its kind. -/
theorem record_head (e : Event) :
    e.record.head? = some 0x01 ∨ e.record.head? = some 0x02 ∨ e.record.head? = some 0x03 := by
  cases e with
  | frame cmd args crcCalc crcRecv ok => exact .inl rfl
  | bitmapChanged => exact .inr (.inl rfl)
  | formatError => exact .inr (.inr rfl)

/-- Settles O44: the offsets of the FRAME record's header, args and trailer. -/
theorem eventRecordLayout : Obligations.EventRecordLayout := by
  refine ⟨?_, rfl, rfl, record_head⟩
  intro cmd crcCalc crcRecv args ok _
  dsimp only
  rw [record_frame_eq]
  have header {i : Nat} (hi : i < 5) :=
    getD_header (recordHeader cmd args.length) args (recordTrailer crcCalc crcRecv ok) hi
  have trailer {i : Nat} (j : Nat) (hi : i = 5 + (args.length + j)) :=
    getD_trailer (recordHeader cmd args.length) args (recordTrailer crcCalc crcRecv ok) j hi
  have hok := trailer (i := 9 + args.length) 4 (by omega)
  refine ⟨?_, header (by decide), header (by decide), ?_, header (by decide), header (by decide),
    fun i hi => getD_body (recordHeader _ _) _ _ hi, trailer 0 (by omega), ?_, trailer 2 (by omega), ?_, hok, ?_⟩
  · simp only [List.length_append, recordHeader, recordTrailer, List.length_cons, List.length_nil]
    omega
  · rw [← highByte_eq]
    exact header (by decide)
  · rw [← highByte_eq]
    exact trailer 1 (by omega)
  · rw [← highByte_eq]
    exact trailer 3 (by omega)
  · intro h
    rw [hok, h]
    simp [recordTrailer]

/-! ### Taking a record byte by byte (R100) -/

/-- Before the record's last byte, taking bytes moves only the position. -/
theorem takeEventByte_iterate {s : State} {e : Event} {rest : List Event} (hq : s.evq = e :: rest) (hp : s.evtPos = 0) :
    ∀ {k : Nat}, k < e.record.length → takeEventByte^[k] s = { s with evtPos := k } := by
  intro k
  induction k with
  | zero =>
    intro _
    exact congrArg (fun p => { s with evtPos := p }) hp
  | succ k ih =>
    intro hk
    rw [Function.iterate_succ_apply', ih (Nat.lt_of_succ_lt hk),
      takeEventByte_of_lt (s := { s with evtPos := k }) hq hk]

/-- Settles O45. -/
theorem eventRecordIsSentInOrder : Obligations.EventRecordIsSentInOrder := by
  intro s e rest hq hp
  refine ⟨?_, ?_, ?_⟩
  · intro k hk
    rw [takeEventByte_iterate hq hp hk, evtOut_of_cons (s := { s with evtPos := k }) hq]
  · intro k hk
    rw [takeEventByte_iterate hq hp hk]
  · obtain ⟨last, hlast⟩ := Nat.exists_eq_succ_of_ne_zero (record_length_pos e).ne'
    rw [hlast, Function.iterate_succ_apply', takeEventByte_iterate hq hp (by omega),
      takeEventByte_of_le (s := { s with evtPos := last }) hq hlast.le]

end Sys2Proof.Proofs

/-! What a host command answers and what the transmit queue holds (30_encoding.md R95, R104; 60_exceptions.md R311). -/

namespace Sys2Proof.Proofs

open Sys2Proof.Machine Sys2Proof.Claims

/-! ### One response per command (R95) -/

/-- R311: an error response carries one of the codes 1 to 4. -/
def CodedError (r : Response) : Prop := r.err = true → r.data = 1 ∨ r.data = 2 ∨ r.data = 3 ∨ r.data = 4

/-- `qt` is `qs` and one more response, with a code of R311 where it is an error. -/
def AppendsResponse (qs qt : List Response) : Prop := ∃ r, qt = qs ++ [r] ∧ CodedError r

theorem respond_appendsResponse (v : Word) (s : State) : AppendsResponse s.rspq (respond v s).rspq :=
  ⟨_, rfl, nofun⟩

theorem raise_appendsResponse (e : CmdError) (s : State) : AppendsResponse s.rspq (raise e s).rspq := by
  refine ⟨_, rfl, fun _ => ?_⟩
  cases e with
  | illegalOpcode => exact .inl rfl
  | badOperand => exact .inr (.inl rfl)
  | txNotActive => exact .inr (.inr (.inl rfl))
  | txOverflow => exact .inr (.inr (.inr rfl))

theorem txAppend_appendsResponse (bs : List Byte) (s : State) : AppendsResponse s.rspq (txAppend bs s).rspq := by
  rcases txAppend_cases bs s with ⟨-, e⟩ | ⟨-, e⟩ <;> rw [e]
  · exact respond_appendsResponse 0 { s with txs := s.txs ++ bs }
  · exact raise_appendsResponse .txOverflow
      { s with txs := [], txact := false, flags := { s.flags with txovf := true } }

/-- R316: every transaction answers a next state. -/
theorem exec_continues (i : Instr) (s : State) : Continues (exec i s) := by
  cases i <;> exact ⟨_, rfl⟩

theorem exec_appendsResponse {i : Instr} {s t : State} (hi : ∀ b, i ≠ .feed b) (h : exec i s = .next t) :
    AppendsResponse s.rspq t.rspq := by
  rcases exec_cases h with ⟨b, hb, -⟩ | ⟨-, rfl⟩ | ⟨-, rfl⟩ | ⟨v, -, rfl⟩ | ⟨v, -, rfl⟩ | ⟨cmd, -, rfl⟩ |
    ⟨bs, -, rfl, -⟩ | ⟨-, -, rfl⟩ | ⟨-, rfl, -⟩ | ⟨-, rfl⟩ | ⟨⟨v, rfl⟩, -⟩
  · exact absurd hb (hi b)
  · exact respond_appendsResponse 0 (toIdle s)
  · exact respond_appendsResponse 0 (resetElements s)
  · exact respond_appendsResponse 0 { s with flags := s.flags.clearBy v }
  · exact respond_appendsResponse 0 { s with cfg := cfgOfValue v }
  · exact respond_appendsResponse 0 { s with txs := bytesOf16 cmd, txact := true }
  · exact txAppend_appendsResponse bs s
  · exact respond_appendsResponse _ { send (encodeFrame s.txs) s with txs := [], txact := false }
  · exact raise_appendsResponse .txNotActive s
  · exact raise_appendsResponse .badOperand s
  · exact respond_appendsResponse v s

/-- R313: an accepted word runs as its instruction. -/
theorem step_of_decode_ok {s : State} {w : PortWord} {rest : List Offer} {i : Instr} (ho : s.offers = .input w :: rest)
    (hd : decode w = .ok i) : step s = exec i { s with offers := rest } := by
  simp only [step, nextOffer, ho, hd]

/-- Settles O48: a refused word raises its error, an accepted one is no FEED and runs. -/
theorem oneResponsePerCommand : Obligations.OneResponsePerCommand := by
  intro s w rest ho
  cases hd : decode (.cmd w) with
  | error e =>
    obtain ⟨r, hr, hcode⟩ := raise_appendsResponse e { s with offers := rest }
    exact ⟨_, r, step_of_decode_error ho hd, hr, hcode⟩
  | ok i =>
    obtain ⟨t, ht⟩ := exec_continues i { s with offers := rest }
    have hi : ∀ b, i ≠ .feed b := fun b hb => decodeCmd_ne_feed (hb ▸ hd)
    obtain ⟨r, hr, hcode⟩ := exec_appendsResponse hi ht
    exact ⟨t, r, (step_of_decode_ok ho hd).trans ht, hr, hcode⟩

/-! ### The transmit queue (R104) -/

theorem txFrames_nil : TxFrames [] := ⟨[], 0, nofun, rfl⟩

/-- A taken byte leaves a tail of the same frames. -/
theorem txFrames_tail {q : List Byte} (h : TxFrames q) : TxFrames q.tail := by
  obtain ⟨Ps, k, hPs, rfl⟩ := h
  exact ⟨Ps, k + 1, hPs, List.tail_drop⟩

/-- One more frame goes behind the frames there are, however much of these is gone. -/
theorem txFrames_append {q : List Byte} {P : List Byte} (h : TxFrames q) (hP : 2 ≤ P.length ∧ P.length ≤ txMax) :
    TxFrames (q ++ encodeFrame P) := by
  obtain ⟨Ps, k, hPs, rfl⟩ := h
  refine ⟨Ps ++ [P], min k (Ps.map encodeFrame).flatten.length, ?_, ?_⟩
  · exact List.forall_mem_append.2 ⟨hPs, List.forall_mem_singleton.2 hP⟩
  · rw [List.map_append, List.flatten_append, List.drop_append_of_le_length (Nat.min_le_right _ _),
      ← List.drop_eq_drop_min]
    simp

theorem txAppend_txq (bs : List Byte) (s : State) : (txAppend bs s).txq = s.txq := by
  rcases txAppend_cases bs s with ⟨-, e⟩ | ⟨-, e⟩ <;> rw [e] <;> rfl

theorem takeEventByte_txq (s : State) : (takeEventByte s).txq = s.txq := by
  rcases takeEventByte_cases s with ⟨-, e⟩ | ⟨_, _, -, ⟨-, e⟩ | ⟨-, e⟩⟩ <;> rw [e]

/-- R206, R283: TXEND is the only transaction that puts bytes on `TXQ`, and SRST the only one that removes any. -/
theorem exec_txq {i : Instr} {s t : State} (h : exec i s = .next t) :
    t.txq = s.txq ∨ t.txq = [] ∨ (s.txact = true ∧ t.txq = s.txq ++ encodeFrame s.txs) := by
  rcases exec_cases h with ⟨b, -, rfl⟩ | ⟨-, rfl⟩ | ⟨-, rfl⟩ | ⟨v, -, rfl⟩ | ⟨v, -, rfl⟩ | ⟨cmd, -, rfl⟩ |
    ⟨bs, -, rfl, -⟩ | ⟨-, hact, rfl⟩ | ⟨-, rfl, -⟩ | ⟨-, rfl⟩ | ⟨⟨v, rfl⟩, -⟩
  · obtain ⟨-, -, -, htxq, -⟩ := feedByte_keeps Config.params b s
    exact .inl htxq
  · exact .inl rfl
  · exact .inr (.inl rfl)
  · exact .inl rfl
  · exact .inl rfl
  · exact .inl rfl
  · exact .inl (txAppend_txq bs s)
  · exact .inr (.inr ⟨hact, rfl⟩)
  · exact .inl rfl
  · exact .inl rfl
  · exact .inl rfl

theorem exec_txFrames {i : Instr} {s t : State} (hs : StagingInv s) (hq : TxFrames s.txq) (h : exec i s = .next t) :
    TxFrames t.txq := by
  rcases exec_txq h with e | e | ⟨hact, e⟩ <;> rw [e]
  · exact hq
  · exact txFrames_nil
  · exact txFrames_append hq (hs.2 hact)

/-- Settles O55: a step leaves `TXQ`, empties it, takes its head, or puts a staged frame behind it. -/
theorem transmitQueueHoldsFrames : Obligations.TransmitQueueHoldsFrames := by
  intro s t hs hq h
  rcases step_cases h with ⟨-, rfl⟩ | ⟨o, rest, -, hstep⟩
  · exact hq
  · rcases hstep with ⟨w, i, -, -, hexec⟩ | ⟨w, e, -, -, rfl⟩ | ⟨-, rfl⟩ | ⟨-, rfl⟩ | ⟨-, rfl⟩ | ⟨-, rfl⟩
    · exact exec_txFrames (s := { s with offers := rest }) hs hq hexec
    · exact hq
    · exact hq
    · rw [takeEventByte_txq]
      exact hq
    · exact txFrames_tail hq
    · exact txFrames_nil

end Sys2Proof.Proofs

/-! The assembler's lines, FEEDS and SEND (30_encoding.md R106, R107; 42_command_encoder.md R208). -/

namespace Sys2Proof.Proofs

open Sys2Proof.Machine Sys2Proof.Claims

/-- A line of one operand. -/
theorem asmField_map {α : Type} (w n : Nat) (f : BitVec w → α) :
    (asmField w n).map f = if n < 2 ^ w then some (f (BitVec.ofNat w n)) else none := by
  rw [asmField_eq, apply_ite (Option.map f)]
  rfl

/-- A line of two operands. -/
theorem asmField_pair (v w m n : Nat) (f : BitVec v → BitVec w → Instr) :
    (do let a ← asmField v m; let b ← asmField w n; return [f a b]) =
      if m < 2 ^ v ∧ n < 2 ^ w then some [f (BitVec.ofNat v m) (BitVec.ofNat w n)] else none := by
  rw [asmField_eq, asmField_eq]
  by_cases hm : m < 2 ^ v
  · by_cases hn : n < 2 ^ w
    · rw [if_pos hm, if_pos hn, if_pos ⟨hm, hn⟩]
      rfl
    · rw [if_pos hm, if_neg hn, if_neg fun h : _ ∧ _ => hn h.2]
      rfl
  · rw [if_neg hm, if_neg fun h : _ ∧ _ => hm h.1]
    rfl

theorem asmFeed_eq (b : Nat) : asmFeed b = if b < 256 then some (.feed (BitVec.ofNat 8 b)) else none :=
  asmField_map 8 b Instr.feed

theorem asmTxuint_eq (v : Nat) : asmTxuint v = if v < 2 ^ 32 then some (.txuint (BitVec.ofNat 32 v)) else none :=
  asmField_map 32 v Instr.txuint

/-- The line of one transaction. -/
theorem map_singleton_ite {c : Prop} [Decidable c] (i : Instr) :
    (if c then some i else none).map (fun i => [i]) = if c then some [i] else none := by
  rw [apply_ite (Option.map _)]
  rfl

section
variable {f : Nat → Option Instr} {g : Nat → Instr} {bound : Nat} {xs : List Nat}

/-- Operands that each assemble to one transaction within a bound, all within it. -/
theorem mapM_bounded (hf : ∀ x, f x = if x < bound then some (g x) else none) (h : ∀ x ∈ xs, x < bound) :
    xs.mapM f = some (xs.map g) :=
  mapM_eq_map fun x hx => by rw [hf, if_pos (h x hx)]

/-- One operand beyond the bound. -/
theorem mapM_exceeded (hf : ∀ x, f x = if x < bound then some (g x) else none) (h : ∃ x ∈ xs, bound ≤ x) :
    xs.mapM f = none := by
  obtain ⟨x, hx, hle⟩ := h
  exact mapM_eq_none ⟨x, hx, by rw [hf, if_neg (Nat.not_lt.2 hle)]⟩

end

/-- A raw byte of SEND (R208). -/
theorem asmRawByte_eq (b : Nat) :
    (if b < 256 then asmTxbyte b else none) = if b < 256 then some (.txbyte (BitVec.ofNat 8 b) 0) else none := by
  by_cases hb : b < 256
  · have hb' : b < 2 ^ 32 := hb.trans (by decide)
    rw [if_pos hb, if_pos hb, asmTxbyte_eq, if_pos hb', Nat.div_eq_of_lt hb]
    rfl
  · rw [if_neg hb, if_neg hb]

theorem assemble_send {cmd : Nat} {args : List SendArg} {body : List (List Instr)} (hc : cmd < 65536)
    (hb : args.mapM asmArg = some body) :
    (AsmLine.send cmd args).assemble = some (.txbegin (BitVec.ofNat 16 cmd) :: (body.flatten ++ [.txend])) := by
  have hc' : asmField 16 cmd = some (BitVec.ofNat 16 cmd) := if_pos hc
  rw [AsmLine.assemble, hc', hb]
  rfl

theorem assemble_send_error {cmd : Nat} {args : List SendArg} (h : 65536 ≤ cmd ∨ ∃ a ∈ args, asmArg a = none) :
    (AsmLine.send cmd args).assemble = none := by
  by_cases hc : cmd < 65536
  · have hargs : args.mapM asmArg = none := mapM_eq_none (h.resolve_left (Nat.not_le.2 hc))
    have hc' : asmField 16 cmd = some (BitVec.ofNat 16 cmd) := if_pos hc
    rw [AsmLine.assemble, hc', hargs]
    rfl
  · have hc' : asmField 16 cmd = none := if_neg hc
    rw [AsmLine.assemble, hc']
    rfl

/-- Settles O60: lines of no, one and two operands, then the lists of operands, then SEND and its arguments. -/
theorem sendExpandsToStaging : Obligations.SendExpandsToStaging := by
  refine ⟨⟨?_, rfl, rfl, rfl, ?_, ?_, ?_, ?_, ?_, rfl, ?_, ?_, ?_⟩, ⟨?_, ?_⟩, ⟨?_, ?_⟩, ?_, ?_, ?_, ?_, ?_⟩
  · exact fun b => (congrArg _ (asmFeed_eq b)).trans (map_singleton_ite _)
  · exact fun r => asmField_map 8 r fun r => [Instr.rdreg r]
  · exact fun r v => asmField_pair 8 16 r v .wrreg
  · exact fun c => asmField_map 16 c fun c => [Instr.txbegin c]
  · exact fun v => (congrArg _ (asmTxuint_eq v)).trans (map_singleton_ite _)
  · exact fun a => (congrArg _ (asmTxbyte_eq a)).trans (map_singleton_ite _)
  · exact fun c g => asmField_pair 8 8 c g .bmrd
  · exact fun b q => asmField_pair 8 16 b q .ciph
  · exact fun b c => asmField_pair 8 16 b c .crcu
  · exact fun bs h => mapM_bounded asmFeed_eq h
  · exact fun bs h => mapM_exceeded asmFeed_eq h
  · exact fun cmd args body => assemble_send
  · exact fun cmd args => assemble_send_error
  · exact fun v => (congrArg _ (asmTxuint_eq v)).trans (map_singleton_ite _)
  · exact fun bs h => mapM_bounded asmRawByte_eq h
  · exact fun bs h => mapM_exceeded asmRawByte_eq h
  · exact fun vs h => mapM_bounded asmTxbyte_eq h
  · exact fun vs h => mapM_exceeded asmTxbyte_eq h

end Sys2Proof.Proofs

/-! The cipher, the checksum, and the two operations that answer them (40_cipher_crc.md R120 to R126). -/

namespace Sys2Proof.Proofs

open Sys2Proof.Machine Sys2Proof.Claims

/-! ### The checksum's rounds on 16 bits (R122, R124) -/

theorem getLsbD_15_eq_decide (c : U16) : c.getLsbD 15 = decide (0x8000 ≤ c.toNat) :=
  BitVec.msb_eq_getLsbD_last c ▸ BitVec.msb_eq_decide c

/-- The shifted value needs no mask exactly when bit 15 is clear; otherwise the mask drops its bit 16, as the shift on
16 bits does. -/
theorem crcRound_toNat (c : U16) : crcRound c.toNat = (roundBits c).toNat := by
  simp only [crcRound, roundBits, getLsbD_15_eq_decide, decide_eq_true_eq, Nat.shiftLeft_eq]
  by_cases h : 0x8000 ≤ c.toNat
  · have hover : c.toNat * 2 ^ 1 > 0xFFFF := by omega
    have hmask (n : Nat) : n &&& 0xFFFF = n % 2 ^ 16 := Nat.and_two_pow_sub_one_eq_mod n 16
    rw [if_pos hover, if_pos h, hmask, Nat.xor_mod_two_pow, BitVec.toNat_xor, BitVec.toNat_shiftLeft, Nat.shiftLeft_eq]
    rfl
  · have hfits : ¬ c.toNat * 2 ^ 1 > 0xFFFF := by omega
    rw [if_neg hfits, if_neg h, BitVec.ofNat_eq_ofNat, BitVec.xor_zero, BitVec.toNat_shiftLeft, Nat.shiftLeft_eq]
    omega

theorem repeat_crcRound_toNat (c : U16) (n : Nat) : Nat.repeat crcRound n c.toNat = (Nat.repeat roundBits n c).toNat := by
  induction n with
  | zero => rfl
  | succ n ih => exact (congrArg crcRound ih).trans (crcRound_toNat _)

/-- R122's start value is below `2^16`: the byte goes into the high half. -/
theorem toNat_xor_highByte (b : Byte) (crc : U16) :
    crc.toNat ^^^ (b.toNat <<< 8) = (crc ^^^ (b.setWidth 16 <<< 8)).toNat := by
  have hb : b.toNat < 2 ^ 8 := b.isLt
  rw [BitVec.toNat_xor, BitVec.toNat_shiftLeft, BitVec.toNat_setWidth_of_le (by decide), Nat.shiftLeft_eq,
    Nat.mod_eq_of_lt (by omega)]

/-- R124: `crc_update` is eight rounds on 16 bits. -/
theorem crcUpdate_eq_roundBits (b : Byte) (crc : U16) :
    crcUpdate b crc = Nat.repeat roundBits 8 (crc ^^^ (b.setWidth 16 <<< 8)) := by
  rw [crcUpdate, toNat_xor_highByte, repeat_crcRound_toNat, BitVec.ofNat_toNat, BitVec.setWidth_eq]

/-! ### The fold (R123) -/

theorem crcSeq_nil (seed : U16) : crcSeq seed [] = seed := rfl

theorem crcSeq_cons (seed : U16) (b : Byte) (rest : List Byte) :
    crcSeq seed (b :: rest) = crcSeq (crcUpdate b seed) rest := List.foldl_cons ..

theorem crcSeq_append (seed : U16) (bs cs : List Byte) : crcSeq seed (bs ++ cs) = crcSeq (crcSeq seed bs) cs :=
  List.foldl_append

/-- R124's check value over "123456789", three bytes at a time: the whole string at once is too deep for `decide`. -/
theorem crcSeq_checkString : crcSeq 0 [0x31, 0x32, 0x33, 0x34, 0x35, 0x36, 0x37, 0x38, 0x39] = 0x31C3 := by
  have h123 : crcSeq 0 [0x31, 0x32, 0x33] = 0x9752 := by decide
  have h456 : crcSeq 0x9752 [0x34, 0x35, 0x36] = 0x20E4 := by decide
  have h789 : crcSeq 0x20E4 [0x37, 0x38, 0x39] = 0x31C3 := by decide
  change crcSeq 0 ([0x31, 0x32, 0x33] ++ ([0x34, 0x35, 0x36] ++ [0x37, 0x38, 0x39])) = 0x31C3
  rw [crcSeq_append, crcSeq_append, h123, h456, h789]

/-- Settles O18: the fold's two equations, the rounds on 16 bits, and the check value. -/
theorem crcIsBitSerial : Obligations.CrcIsBitSerial :=
  ⟨crcSeq_nil, crcSeq_cons, crcUpdate_eq_roundBits, crcSeq_checkString⟩

/-! ### The cipher (R120, R121) -/

theorem cipherByte_cipherByte (b : Byte) (pos : Nat) : cipherByte (cipherByte b pos) pos = b := by
  rw [cipherByte, cipherByte, BitVec.xor_assoc, BitVec.xor_self, BitVec.xor_zero]

theorem cipherByte_add_sixteen (b : Byte) (pos : Nat) : cipherByte b (pos + 16) = cipherByte b pos := by
  rw [cipherByte_eq_keyTable, cipherByte_eq_keyTable, Nat.add_mod_right]

/-- Settles O17. -/
theorem cipherInvolution : Obligations.CipherInvolution :=
  ⟨cipherByte_eq_keyTable, cipherByte_cipherByte, fun b pos => (cipherByte_add_sixteen b pos).symm⟩

/-! ### The operations CIPH and CRCU (R125, R126) -/

/-- R93: a word with an assigned opcode is accepted exactly when its reserved bits are 0. -/
theorem decode_wordOf_assigned {op : Byte} {o : Opcode} (h : opcodeOf op = some o) (a : Word) :
    decode (wordOf op a) = if a &&& reservedMask o = 0 then .ok (operandsOf o a) else .error .badOperand := by
  rw [wordOf, append_eq_cmdWord, decode, decodeCmd_assigned h]

theorem exec_ciph (b : Byte) (pos : U16) (s : State) :
    exec (.ciph b pos) s = .next (answered ((cipherByte b pos.toNat).setWidth 32) s) := rfl

theorem exec_crcu (b : Byte) (crc : U16) (s : State) :
    exec (.crcu b crc) s = .next (answered ((crcUpdate b crc).setWidth 32) s) := rfl

/-- Settles O15: the answer is the cipher's, by the printed table. -/
theorem ciphAnswersCipherByte : Obligations.CiphAnswersCipherByte := by
  refine ⟨fun s b pos => ?_, decode_wordOf_assigned (o := .ciph) rfl⟩
  rw [exec_ciph, cipherByte_eq_keyTable]

/-- Settles O16: the operation, the rule's values, and the decoder. -/
theorem crcuAnswersCrcUpdate : Obligations.CrcuAnswersCrcUpdate :=
  ⟨fun s b crc => exec_crcu b crc s, by decide, by decide, by decide, by decide,
    decode_wordOf_assigned (o := .crcu) rfl⟩

end Sys2Proof.Proofs

/-! FEED, stage by stage (41_frame_decoder.md R150 to R164). -/

namespace Sys2Proof.Proofs

open Sys2Proof.Machine Sys2Proof.Claims

/-! ### What one byte does, one equation per branch of R150 to R161 -/

section
variable {p : Params} {b : Byte} {s : State}

theorem feedByte_idle_sync (h : s.stage = .idle) : feedByte p 0xAB s = { s with stage := .sync2 } := by
  simp only [feedByte, h]
  exact if_pos rfl

theorem feedByte_idle_alt (h : s.stage = .idle) (hb : b ≠ 0xAB) (halt : p.altSyncByte = some b) :
    feedByte p b s = { s with stage := .alt, flags := { s.flags with altseen := true } } := by
  simp only [feedByte, h]
  exact (if_neg hb).trans (if_pos halt)

theorem feedByte_idle_drop (h : s.stage = .idle) (hb : b ≠ 0xAB) (halt : p.altSyncByte ≠ some b) :
    feedByte p b s = s := by
  simp only [feedByte, h]
  exact (if_neg hb).trans (if_neg halt)

theorem feedByte_sync2_sync (h : s.stage = .sync2) : feedByte p 0xCD s = { s with stage := .lenlo } := by
  simp only [feedByte, h]
  exact if_pos rfl

theorem feedByte_sync2_other (h : s.stage = .sync2) (hb : b ≠ 0xCD) : feedByte p b s = toIdle s := by
  simp only [feedByte, h]
  exact if_neg hb

theorem feedByte_alt (h : s.stage = .alt) : feedByte p b s = s := by simp only [feedByte, h]

theorem feedByte_lenlo (h : s.stage = .lenlo) : feedByte p b s = { s with len := b.setWidth 16, stage := .lenhi } := by
  simp only [feedByte, h, feedLenlo]

/-- The length that LENHI completes (R154). -/
def lenOf (s : State) (b : Byte) : U16 := s.len ||| (b.setWidth 16 <<< 8)

theorem feedByte_lenhi_over (h : s.stage = .lenhi) (hmax : p.maxPayload < (lenOf s b).toNat) :
    feedByte p b s = toIdle { s with crcCalc := 0, flags := { s.flags with ovf := true } } := by
  rw [lenOf] at hmax
  simp only [feedByte, h, feedLenhi, if_pos hmax, toIdle]

theorem feedByte_lenhi_zero (h : s.stage = .lenhi) (hlen : lenOf s b = 0) :
    feedByte p b s = { s with len := 0, acc := [], rcnt := 0, crcCalc := 0, stage := .cklo } := by
  rw [lenOf] at hlen
  have hmax : ¬ p.maxPayload < (0 : U16).toNat := Nat.not_lt_zero _
  simp only [feedByte, h, feedLenhi, hlen, if_neg hmax, if_true]

theorem feedByte_lenhi_payload (h : s.stage = .lenhi) (hlen : lenOf s b ≠ 0) (hmax : (lenOf s b).toNat ≤ p.maxPayload) :
    feedByte p b s = { s with len := lenOf s b, acc := [], rcnt := 0, crcCalc := 0, stage := .payload } := by
  rw [lenOf] at hlen hmax
  simp only [feedByte, h, feedLenhi, if_neg hlen, if_neg (Nat.not_lt.2 hmax), lenOf]

theorem feedByte_payload (h : s.stage = .payload) :
    feedByte p b s =
      { s with
        acc := s.acc ++ [cipherByte b s.rcnt.toNat]
        crcCalc := crcUpdate (cipherByte b s.rcnt.toNat) s.crcCalc
        rcnt := s.rcnt + 1
        stage := if s.rcnt + 1 = s.len then .cklo else .payload } := by
  simp only [feedByte, h, feedPayload]

theorem feedByte_cklo (h : s.stage = .cklo) :
    feedByte p b s = { s with crcRecv := (cipherByte b s.len.toNat).setWidth 16, stage := .ckhi } := by
  simp only [feedByte, h, feedCklo]

theorem feedByte_ckhi (h : s.stage = .ckhi) :
    feedByte p b s =
      { s with
        crcRecv := s.crcRecv ||| ((cipherByte b (s.len.toNat + 1)).setWidth 16 <<< 8)
        stage := .foot1 } := by
  simp only [feedByte, h, feedCkhi]

theorem feedByte_foot1_footer (h : s.stage = .foot1) : feedByte p 0xDC s = { s with stage := .foot2 } := by
  simp only [feedByte, h]
  exact if_pos rfl

theorem feedByte_foot1_other (h : s.stage = .foot1) (hb : b ≠ 0xDC) : feedByte p b s = toIdle s := by
  simp only [feedByte, h]
  exact if_neg hb

theorem feedByte_foot2 (h : s.stage = .foot2) : feedByte p b s = feedFoot2 p b s := by
  simp only [feedByte, h]

theorem feedByte_foot2_other (h : s.stage = .foot2) (hb : b ≠ 0xBA) : feedByte p b s = toIdle s := by
  rw [feedByte_foot2 h]
  rcases feedFoot2_cases p b s with ⟨-, e⟩ | ⟨hba, -⟩ | ⟨hba, -⟩ | ⟨hba, -⟩
  · exact e
  · exact absurd hba hb
  · exact absurd hba hb
  · exact absurd hba hb

theorem feedByte_foot2_short (h : s.stage = .foot2) (hacc : s.acc.length < 2) :
    feedByte p 0xBA s = toIdle { reported s with flags := { (reported s).flags with short := true } } := by
  rw [feedByte_foot2 h]
  rcases feedFoot2_cases p 0xBA s with ⟨hb, -⟩ | ⟨-, -, e⟩ | ⟨-, hlong, -⟩ | ⟨-, hlong, -⟩
  · exact absurd rfl hb
  · exact e
  · exact absurd hacc (Nat.not_lt.2 hlong)
  · exact absurd hacc (Nat.not_lt.2 hlong)

theorem feedByte_foot2_strict (h : s.stage = .foot2) (hacc : 2 ≤ s.acc.length) (hstrict : s.cfg.strict = true)
    (hcrc : s.crcCalc ≠ s.crcRecv) : feedByte p 0xBA s = toIdle (reported s) := by
  rw [feedByte_foot2 h]
  rcases feedFoot2_cases p 0xBA s with ⟨hb, -⟩ | ⟨-, hshort, -⟩ | ⟨-, -, -, -, e⟩ | ⟨-, -, hkept, -⟩
  · exact absurd rfl hb
  · exact absurd hshort (Nat.not_lt.2 hacc)
  · exact e
  · simp [hstrict, hcrc] at hkept

theorem feedByte_foot2_complete (h : s.stage = .foot2) (hacc : 2 ≤ s.acc.length)
    (hkept : s.cfg.strict = false ∨ s.crcCalc = s.crcRecv) :
    feedByte p 0xBA s = toIdle (complete p (decide (s.crcCalc = s.crcRecv)) (reported s)) := by
  rw [feedByte_foot2 h]
  rcases feedFoot2_cases p 0xBA s with ⟨hb, -⟩ | ⟨-, hshort, -⟩ | ⟨-, -, hstrict, hcrc, -⟩ | ⟨-, -, -, e⟩
  · exact absurd rfl hb
  · exact absurd hshort (Nat.not_lt.2 hacc)
  · simp [hstrict, hcrc] at hkept
  · exact e

/-! ### The checksum report and the completion -/

theorem reported_of_eq (h : s.crcCalc = s.crcRecv) : reported s = s := by
  rw [reported, decide_eq_true h, Bool.not_true, Bool.or_false]

theorem reported_of_ne (h : s.crcCalc ≠ s.crcRecv) : reported s = { s with flags := { s.flags with crcerr := true } } := by
  simp [reported, h]

/-- R161 in the words of the statements: CRCERR is set on a mismatch. -/
theorem reported_eq (s : State) :
    reported s = { s with flags := { s.flags with crcerr := s.flags.crcerr || decide (s.crcCalc ≠ s.crcRecv) } } := by
  rw [reported, decide_not]

/-- The screen decoder reads and writes nothing of the decoder's stage, count and accumulator. -/
theorem toIdle_screenDispatch (args : List Byte) (s : State) :
    toIdle (screenDispatch args s) = screenDispatch args (toIdle s) := by
  unfold screenDispatch
  split
  · rfl
  · rfl

end

/-! ### The statements about one FEED -/

theorem exec_feed (b : Byte) (s : State) : exec (.feed b) s = .next (feedByte Config.params b s) := rfl

/-- Settles O25: `0xAB` is never the alternate sync byte of legal parameters. -/
theorem feedInIdle : Obligations.FeedInIdle := by
  refine ⟨fun s hst => ?_, fun s b => exec_feed b s, params_legal, fun p s b hp hst halt => ?_,
    fun p s b hst hb halt => feedByte_idle_drop hst hb halt⟩
  · rw [exec_feed, feedByte_idle_sync hst]
  · obtain ⟨hlegal, -⟩ := hp
    have hb : b ≠ 0xAB := by
      rintro rfl
      exact hlegal halt
    exact feedByte_idle_alt hst hb halt

/-- Settles O26: the second sync byte, and every other byte. -/
theorem feedInSync2 : Obligations.FeedInSync2 := by
  refine ⟨fun s hst => ?_, fun s b hst hb => ?_⟩
  · rw [exec_feed, feedByte_sync2_sync hst]
  · rw [exec_feed, feedByte_sync2_other hst hb, toIdle, atIdle]

/-- Settles O28: no byte is refused as a low length byte. -/
theorem feedInLenlo : Obligations.FeedInLenlo := by
  intro s b hst
  rw [exec_feed, feedByte_lenlo hst]

/-- Settles O29: the three cases of the completed length. -/
theorem feedInLenhi : Obligations.FeedInLenhi :=
  ⟨fun s b => exec_feed b s, fun _ _ _ hst =>
    ⟨feedByte_lenhi_over hst, feedByte_lenhi_zero hst, feedByte_lenhi_payload hst⟩⟩

/-- Settles O30: the key's byte is the printed table's. -/
theorem feedInPayload : Obligations.FeedInPayload := by
  intro s b hst
  rw [exec_feed, feedByte_payload hst, cipherByte_eq_keyTable]

/-- Settles O31: the key's bytes are the printed table's. -/
theorem feedInChecksumStages : Obligations.FeedInChecksumStages := by
  refine ⟨fun s b hst => ?_, fun s b hst => ?_⟩
  · rw [exec_feed, feedByte_cklo hst, cipherByte_eq_keyTable]
  · rw [exec_feed, feedByte_ckhi hst, cipherByte_eq_keyTable]

/-- Settles O32: the first footer byte, and every other byte. -/
theorem feedInFoot1 : Obligations.FeedInFoot1 := by
  refine ⟨fun s hst => ?_, fun s b hst hb => ?_⟩
  · rw [exec_feed, feedByte_foot1_footer hst]
  · rw [exec_feed, feedByte_foot1_other hst hb, toIdle, atIdle]

/-- Settles O33: the three ways a frame is dropped at FOOT2. -/
theorem feedInFoot2Drops : Obligations.FeedInFoot2Drops := by
  refine ⟨fun s b hst hb => ?_, fun s hst hacc => ?_, fun s hst hacc hstrict hcrc => ?_⟩
  · rw [exec_feed, feedByte_foot2_other hst hb, toIdle, atIdle]
  · rw [exec_feed, feedByte_foot2_short hst hacc, reported_eq, toIdle, atIdle]
  · rw [exec_feed, feedByte_foot2_strict hst hacc hstrict hcrc, reported_of_ne hcrc, toIdle, atIdle]

/-- Settles O34: the report, then the completion with or without the screen decoder. -/
theorem feedInFoot2Completes : Obligations.FeedInFoot2Completes := by
  intro s hst hacc hkept
  dsimp only
  rw [exec_feed, feedByte_foot2_complete hst hacc hkept, reported_eq, complete_eq]
  rfl

end Sys2Proof.Proofs

/-! The round trip: the decoder takes back what the encoder builds (41_frame_decoder.md R166, R167; 42_command_encoder.md
R201). -/

namespace Sys2Proof.Proofs

open Sys2Proof.Machine Sys2Proof.Claims

section
variable {p : Params} {s : State}

/-! ### A 16-bit value from its two bytes (R63, R109) -/

theorem le16_bytes (v : U16) : le16 (lowByte v) (highByte v) = v := by
  apply BitVec.eq_of_toNat_eq
  have hv : v.toNat < 65536 := v.isLt
  have hlow : ((lowByte v).setWidth 16).toNat = v.toNat % 2 ^ 8 := by
    simp only [lowByte_eq, BitVec.toNat_setWidth, BitVec.toNat_ofNat]
    omega
  have hhigh : ((highByte v).setWidth 16 <<< 8).toNat = 2 ^ 8 * (v.toNat / 256) := by
    simp only [highByte_eq, BitVec.toNat_shiftLeft, BitVec.toNat_setWidth, BitVec.toNat_ofNat, Nat.shiftLeft_eq]
    omega
  rw [le16, BitVec.toNat_or, hlow, hhigh, Nat.or_comm, ← Nat.two_pow_add_eq_or_of_lt (Nat.mod_lt _ (by decide))]
  omega

/-! ### The fields of a frame, one after the other -/

/-- R150, R151: the two sync bytes. -/
theorem feedBytes_sync (hst : s.stage = .idle) (rest : List Byte) :
    feedBytes p (0xAB :: 0xCD :: rest) s = feedBytes p rest { s with stage := .lenlo } := by
  rw [feedBytes_cons, feedByte_idle_sync hst, feedBytes_cons, feedByte_sync2_sync rfl]

/-- R153, R154: the two bytes of an accepted length. -/
theorem feedBytes_length {n : U16} (hst : s.stage = .lenlo) (hpos : n ≠ 0) (hmax : n.toNat ≤ p.maxPayload)
    (rest : List Byte) :
    feedBytes p (lowByte n :: highByte n :: rest) s =
      feedBytes p rest { s with len := n, acc := [], rcnt := 0, crcCalc := 0, stage := .payload } := by
  have hlen : lenOf { s with len := (lowByte n).setWidth 16, stage := .lenhi } (highByte n) = n := le16_bytes n
  rw [feedBytes_cons, feedByte_lenlo hst, feedBytes_cons, feedByte_lenhi_payload rfl, hlen]
  · rw [hlen]
    exact hpos
  · rw [hlen]
    exact hmax

/-- R157: the ciphered bytes that complete the declared length are deciphered, folded and counted. -/
theorem feedBytes_cipherFrom (rest : List Byte) {Q : List Byte} : ∀ {s : State}, s.stage = .payload → Q ≠ [] →
    s.rcnt.toNat + Q.length = s.len.toNat →
    feedBytes p (cipherFrom s.rcnt.toNat Q ++ rest) s = feedBytes p rest
      { s with acc := s.acc ++ Q, crcCalc := crcSeq s.crcCalc Q, rcnt := s.len, stage := .cklo } := by
  induction Q with
  | nil => exact fun _ h => absurd rfl h
  | cons b Q ih =>
    intro s hst _ hlen
    rw [List.length_cons] at hlen
    have hsucc : (s.rcnt + 1).toNat = s.rcnt.toNat + 1 := by bv_omega
    rw [cipherFrom, List.cons_append, feedBytes_cons, feedByte_payload hst, cipherByte_cipherByte]
    by_cases hQ : Q = []
    · subst hQ
      have hlast : s.rcnt + 1 = s.len := BitVec.eq_of_toNat_eq (hsucc.trans hlen)
      rw [if_pos hlast, hlast]
      rfl
    · have hpos := List.length_pos_of_ne_nil hQ
      have hmore : s.rcnt + 1 ≠ s.len := fun h => by
        rw [← h, hsucc] at hlen
        omega
      have htail := ih (s := { s with
        acc := s.acc ++ [b], crcCalc := crcUpdate b s.crcCalc, rcnt := s.rcnt + 1, stage := .payload }) rfl hQ
        (by simp only [hsucc]; omega)
      rw [if_neg hmore, ← hsucc, htail]
      simp only [List.append_assoc, List.singleton_append, crcSeq_cons]

/-- R158, R159: the two ciphered bytes of the checksum. -/
theorem feedBytes_checksum (c : U16) (hst : s.stage = .cklo) (rest : List Byte) :
    feedBytes p (cipherByte (lowByte c) s.len.toNat :: cipherByte (highByte c) (s.len.toNat + 1) :: rest) s =
      feedBytes p rest { s with crcRecv := c, stage := .foot1 } := by
  have hrecv : (lowByte c).setWidth 16 ||| ((highByte c).setWidth 16 <<< 8) = c := le16_bytes c
  rw [feedBytes_cons, feedByte_cklo hst, feedBytes_cons, feedByte_ckhi rfl, cipherByte_cipherByte,
    cipherByte_cipherByte, hrecv]

/-- R160 to R162: the two footer bytes behind a payload whose checksum matches. -/
theorem feedBytes_footer (hst : s.stage = .foot1) (hacc : 2 ≤ s.acc.length) (hcrc : s.crcCalc = s.crcRecv) :
    feedBytes p [0xDC, 0xBA] s = toIdle (complete p true { s with stage := .foot2 }) := by
  rw [feedBytes_cons, feedByte_foot1_footer hst, feedBytes_cons, feedBytes_nil,
    feedByte_foot2_complete (s := { s with stage := .foot2 }) rfl hacc (.inr hcrc),
    reported_of_eq (s := { s with stage := .foot2 }) hcrc, decide_eq_true hcrc]

/-! ### The whole frame -/

/-- `s` after the reception of a frame with payload `P` and its own checksum, before the screen decoder (R167). -/
def receivedFrame (P : List Byte) (s : State) : State :=
  { s with
    len := 0, rcnt := 0, acc := [], crcCalc := crcSeq 0 P, crcRecv := crcSeq 0 P
    evq := s.evq ++ [.frame (commandOf P) (P.drop 2) (crcSeq 0 P) (crcSeq 0 P) true] }

/-- `receivedFrame`, then the screen decoder for the screen command (R162). -/
def afterFrame (p : Params) (P : List Byte) (s : State) : State :=
  if commandOf P = p.screenCmdId then screenDispatch (P.drop 2) (receivedFrame P s) else receivedFrame P s

/-- R162 behind the payload `P` with a matching checksum. -/
theorem toIdle_complete {P : List Byte} (hst : s.stage = .idle) (n : U16) :
    toIdle (complete p true
      { s with
        len := n, rcnt := n, acc := P, crcCalc := crcSeq 0 P, crcRecv := crcSeq 0 P, stage := .foot2 }) =
      afterFrame p P s := by
  rw [afterFrame, complete_eq, apply_ite toIdle, toIdle_screenDispatch]
  simp only [toIdle, emit, frameEvent, receivedFrame, hst]

/-- The frame in the terms of its two 16-bit fields (R201). -/
theorem encodeFrame_eq_fields {P : List Byte} {n : U16} (hn : n.toNat = P.length) :
    encodeFrame P = 0xAB :: 0xCD :: lowByte n :: highByte n :: (cipherFrom 0 P ++
      cipherByte (lowByte (crcSeq 0 P)) n.toNat :: cipherByte (highByte (crcSeq 0 P)) (n.toNat + 1) ::
        [0xDC, 0xBA]) := by
  have hlen : BitVec.ofNat 16 P.length = n := by rw [← hn, BitVec.ofNat_toNat, BitVec.setWidth_eq]
  simp only [encodeFrame, hlen, hn, List.append_assoc, List.cons_append, List.nil_append]

/-- R167: IDLE to IDLE over a whole frame. -/
theorem feedBytes_encodeFrame {P : List Byte} (hst : s.stage = .idle) (hlow : 2 ≤ P.length)
    (hhigh : P.length ≤ p.maxPayload) (hmax : p.maxPayload ≤ 65535) :
    feedBytes p (encodeFrame P) s = afterFrame p P s := by
  obtain ⟨n, hn⟩ : ∃ n : U16, n.toNat = P.length := ⟨BitVec.ofNat 16 P.length, by rw [BitVec.toNat_ofNat]; omega⟩
  have hpos : n ≠ 0 := by
    rintro rfl
    change 0 = P.length at hn
    omega
  have hP : P ≠ [] := List.ne_nil_of_length_pos (by omega)
  rw [encodeFrame_eq_fields hn, feedBytes_sync hst, feedBytes_length rfl hpos (hn ▸ hhigh)]
  calc
    _ = feedBytes p
          (cipherByte (lowByte (crcSeq 0 P)) n.toNat :: cipherByte (highByte (crcSeq 0 P)) (n.toNat + 1) :: [0xDC, 0xBA])
          { s with len := n, rcnt := n, acc := P, crcCalc := crcSeq 0 P, stage := .cklo } :=
      feedBytes_cipherFrom _ (s := { s with len := n, acc := [], rcnt := 0, crcCalc := 0, stage := .payload }) rfl hP
        ((Nat.zero_add _).trans hn.symm)
    _ = feedBytes p [0xDC, 0xBA]
          { s with
            len := n, rcnt := n, acc := P, crcCalc := crcSeq 0 P, crcRecv := crcSeq 0 P, stage := .foot1 } :=
      feedBytes_checksum (crcSeq 0 P)
        (s := { s with len := n, rcnt := n, acc := P, crcCalc := crcSeq 0 P, stage := .cklo }) rfl _
    _ = toIdle (complete p true
          { s with
            len := n, rcnt := n, acc := P, crcCalc := crcSeq 0 P, crcRecv := crcSeq 0 P, stage := .foot2 }) :=
      feedBytes_footer rfl hlow rfl
    _ = _ := toIdle_complete hst n

end

/-- Settles O35: `afterFrame` is the statement's end state. -/
theorem frameRoundTrip : Obligations.FrameRoundTrip := by
  intro p P s ⟨_, _, hmax⟩ hlow hhigh hst
  exact feedBytes_encodeFrame hst hlow hhigh hmax

/-! ### Garbage before a frame -/

/-- R150: bytes that are no sync byte are dropped in IDLE. -/
theorem feedBytes_garbage {p : Params} {s : State} {G : List Byte} (hst : s.stage = .idle)
    (hG : ∀ b ∈ G, b ≠ 0xAB ∧ p.altSyncByte ≠ some b) : feedBytes p G s = s := by
  induction G with
  | nil => rfl
  | cons b G ih =>
    obtain ⟨⟨hb, halt⟩, hrest⟩ := List.forall_mem_cons.1 hG
    rw [feedBytes_cons, feedByte_idle_drop hst hb halt, ih hrest]

/-- R162, R240: the events of a frame. -/
theorem afterFrame_evq (p : Params) (P : List Byte) (s : State) :
    ∃ more, (afterFrame p P s).evq =
        s.evq ++ .frame (commandOf P) (P.drop 2) (crcSeq 0 P) (crcSeq 0 P) true :: more ∧
      (commandOf P ≠ p.screenCmdId → more = []) ∧
      (commandOf P = p.screenCmdId → more = [.bitmapChanged] ∨ more = [.formatError]) := by
  unfold afterFrame
  split
  · next hcmd =>
    rcases screenDispatch_cases (P.drop 2) (receivedFrame P s) with ⟨-, e⟩ | ⟨-, e⟩ <;> rw [e]
    · exact ⟨[.bitmapChanged], (List.append_cons ..).symm, fun h => absurd hcmd h, fun _ => .inl rfl⟩
    · exact ⟨[.formatError], (List.append_cons ..).symm, fun h => absurd hcmd h, fun _ => .inr rfl⟩
  · next hcmd => exact ⟨[], rfl, fun _ => rfl, fun h => absurd h hcmd⟩

theorem screenDispatch_stage (args : List Byte) (s : State) : (screenDispatch args s).stage = s.stage := by
  rcases screenDispatch_cases args s with ⟨-, e⟩ | ⟨-, e⟩ <;> rw [e]

theorem afterFrame_stage (p : Params) (P : List Byte) (s : State) : (afterFrame p P s).stage = s.stage := by
  unfold afterFrame
  split
  · exact screenDispatch_stage _ _
  · rfl

/-- Settles O36: the garbage changes nothing, so the frame behind it is received as in the round trip. -/
theorem garbageWithoutSyncIsDropped : Obligations.GarbageWithoutSyncIsDropped := by
  intro p G P s ⟨_, _, hmax⟩ hst hG hlow hhigh
  have hgarbage := feedBytes_garbage hst hG
  refine ⟨hgarbage, afterFrame p P s, ?_, (afterFrame_stage p P s).trans hst, afterFrame_evq p P s⟩
  rw [feedBytes_append, hgarbage, feedBytes_encodeFrame hst hlow hhigh hmax]

end Sys2Proof.Proofs

/-! How FEED and the resets leave a stage: the inert stage ALT, and the return to IDLE (41_frame_decoder.md R152, R165). -/

namespace Sys2Proof.Proofs

open Sys2Proof.Machine Sys2Proof.Claims

/-! ### What writes the stage -/

theorem txAppend_stage (bs : List Byte) (s : State) : (txAppend bs s).stage = s.stage := by
  rcases txAppend_cases bs s with ⟨-, e⟩ | ⟨-, e⟩ <;> rw [e] <;> rfl

theorem takeEventByte_stage (s : State) : (takeEventByte s).stage = s.stage := by
  rcases takeEventByte_cases s with ⟨-, e⟩ | ⟨_, _, -, ⟨-, e⟩ | ⟨-, e⟩⟩ <;> rw [e]

/-- FEED, PRST and SRST are the only transactions that write the stage. -/
theorem exec_stage {i : Instr} {s t : State} (h : exec i s = .next t) :
    t.stage = s.stage ∨ i = .prst ∨ i = .srst ∨ ∃ b, i = .feed b ∧ t = feedByte Config.params b s := by
  rcases exec_cases h with ⟨b, hi, ht⟩ | ⟨hi, -⟩ | ⟨hi, -⟩ | ⟨v, -, rfl⟩ | ⟨v, -, rfl⟩ | ⟨cmd, -, rfl⟩ |
    ⟨bs, -, rfl, -⟩ | ⟨-, -, rfl⟩ | ⟨-, rfl, -⟩ | ⟨-, rfl⟩ | ⟨⟨v, rfl⟩, -⟩
  · exact .inr (.inr (.inr ⟨b, hi, ht⟩))
  · exact .inr (.inl hi)
  · exact .inr (.inr (.inl hi))
  · exact .inl rfl
  · exact .inl rfl
  · exact .inl rfl
  · exact .inl (txAppend_stage bs s)
  · exact .inl rfl
  · exact .inl rfl
  · exact .inl rfl
  · exact .inl rfl

/-! ### ALT (R152) -/

theorem exec_keeps_alt {i : Instr} {s t : State} (hst : s.stage = .alt) (h : exec i s = .next t) :
    t.stage = .alt ∨ i = .prst ∨ i = .srst := by
  rcases exec_stage h with e | hi | hi | ⟨b, -, rfl⟩
  · exact .inl (e.trans hst)
  · exact .inr (.inl hi)
  · exact .inr (.inr hi)
  · exact .inl (by rw [feedByte_alt hst, hst])

theorem step_keeps_alt {s t : State} (hst : s.stage = .alt) (h : step s = .next t) :
    t.stage = .alt ∨ NextIs s .prst ∨ NextResets s := by
  rcases step_cases h with ⟨-, rfl⟩ | ⟨o, rest, ho, hstep⟩
  · exact .inl hst
  · rcases hstep with ⟨w, i, rfl, hw, hexec⟩ | ⟨w, e, -, -, rfl⟩ | ⟨-, rfl⟩ | ⟨-, rfl⟩ | ⟨-, rfl⟩ | ⟨rfl, -⟩
    · rcases exec_keeps_alt (s := { s with offers := rest }) hst hexec with halt | rfl | rfl
      · exact .inl halt
      · exact .inr (.inl ⟨w, rest, ho, hw⟩)
      · exact .inr (.inr (.inl ⟨w, rest, ho, hw⟩))
    · exact .inl hst
    · exact .inl hst
    · exact .inl ((takeEventByte_stage _).trans hst)
    · exact .inl hst
    · exact .inr (.inr (.inr (by rw [ho]; rfl)))

/-- R351: a clock edge with `rst = 1`. -/
theorem step_of_rst {s : State} {rest : List Offer} (h : s.offers = .rst :: rest) :
    step s = .next (resetEdge { s with offers := rest }) := by
  simp only [step, nextOffer, h]

/-- R281, R283, R351: each of the three resets ends in IDLE. -/
theorem step_reset_stage {s t : State} (hreset : NextIs s .prst ∨ NextResets s) (h : step s = .next t) :
    t.stage = .idle := by
  rcases hreset with ⟨w, rest, ho, hw⟩ | ⟨w, rest, ho, hw⟩ | hrst
  · rw [step_of_decode_ok ho hw] at h
    cases h
    rfl
  · rw [step_of_decode_ok ho hw] at h
    cases h
    rfl
  · obtain ⟨rest, ho⟩ := List.head?_eq_some_iff.1 hrst
    rw [step_of_rst ho] at h
    cases h
    rfl

/-- Settles O27: what keeps ALT, and where each reset leads. -/
theorem altAbsorbsUntilReset : Obligations.AltAbsorbsUntilReset := by
  refine ⟨fun s b hst => ?_, fun s t hst h hne => ?_, fun s t hreset h => step_reset_stage hreset h⟩
  · rw [exec_feed, feedByte_alt hst]
  · exact (step_keeps_alt hst h).resolve_left hne

/-! ### The return to IDLE (R165) -/

/-- The most bytes that the decoder can still take before it is back in IDLE: the rest of a frame of 65535 bytes while the
length is not known, the rest of the frame afterwards. -/
def bytesToIdle (s : State) : Nat :=
  match s.stage with
  | .idle => 0
  | .alt => 0
  | .sync2 => 65542
  | .lenlo => 65541
  | .lenhi => 65540
  | .payload => s.len.toNat - s.rcnt.toNat + 4
  | .cklo => 4
  | .ckhi => 3
  | .foot1 => 2
  | .foot2 => 1

theorem bytesToIdle_le (s : State) : bytesToIdle s ≤ 65542 := by
  have hlen := s.len.isLt
  cases hst : s.stage <;> simp only [bytesToIdle, hst] <;> omega

theorem bytesToIdle_pos {s : State} (hidle : s.stage ≠ .idle) (halt : s.stage ≠ .alt) : 0 < bytesToIdle s := by
  cases hst : s.stage
  case idle => exact absurd hst hidle
  case alt => exact absurd hst halt
  all_goals simp [bytesToIdle, hst]

/-- From `s` to `t` the decoder comes nearer to IDLE and does not reach ALT. -/
def NearerToIdle (s t : State) : Prop := bytesToIdle t < bytesToIdle s ∧ t.stage ≠ .alt

theorem nearerToIdle_toIdle {s : State} (t : State) (hidle : s.stage ≠ .idle) (halt : s.stage ≠ .alt) :
    NearerToIdle s (toIdle t) := ⟨bytesToIdle_pos hidle halt, nofun⟩

/-- R157: in PAYLOAD the rest of the frame is known, and each byte counts. -/
theorem nearerToIdle_payload (p : Params) (b : Byte) {s : State} (hst : s.stage = .payload)
    (hlt : s.rcnt.toNat < s.len.toNat) : NearerToIdle s (feedByte p b s) := by
  have hfrom : bytesToIdle s = s.len.toNat - s.rcnt.toNat + 4 := by simp only [bytesToIdle, hst]
  rw [feedByte_payload hst]
  by_cases hlast : s.rcnt + 1 = s.len
  · rw [if_pos hlast, NearerToIdle, hfrom]
    exact ⟨Nat.lt_add_of_pos_left (Nat.sub_pos_of_lt hlt), nofun⟩
  · have hsucc : (s.rcnt + 1).toNat = s.rcnt.toNat + 1 := by bv_omega
    rw [if_neg hlast, NearerToIdle, hfrom]
    simp only [bytesToIdle, hsucc]
    exact ⟨by omega, nofun⟩

theorem nearerToIdle_lenhi (p : Params) (b : Byte) {s : State} (hst : s.stage = .lenhi) :
    NearerToIdle s (feedByte p b s) := by
  have hfrom : bytesToIdle s = 65540 := by simp only [bytesToIdle, hst]
  by_cases hmax : p.maxPayload < (lenOf s b).toNat
  · rw [feedByte_lenhi_over hst hmax]
    exact nearerToIdle_toIdle _ (by simp [hst]) (by simp [hst])
  · by_cases hlen : lenOf s b = 0
    · rw [feedByte_lenhi_zero hst hlen, NearerToIdle, hfrom]
      simp [bytesToIdle]
    · have hmost := (lenOf s b).isLt
      rw [feedByte_lenhi_payload hst hlen (Nat.not_lt.1 hmax), NearerToIdle, hfrom]
      exact ⟨by simp [bytesToIdle]; omega, nofun⟩

/-- Outside IDLE and ALT, each byte brings the decoder nearer to IDLE. -/
theorem nearerToIdle_feedByte (p : Params) (b : Byte) {s : State} (hs : DecoderInv s) (hidle : s.stage ≠ .idle)
    (halt : s.stage ≠ .alt) : NearerToIdle s (feedByte p b s) := by
  cases hst : s.stage
  case idle => exact absurd hst hidle
  case alt => exact absurd hst halt
  case sync2 =>
    by_cases hb : b = 0xCD
    · subst hb
      rw [feedByte_sync2_sync hst]
      simp [NearerToIdle, bytesToIdle, hst]
    · rw [feedByte_sync2_other hst hb]
      exact nearerToIdle_toIdle s hidle halt
  case lenlo =>
    rw [feedByte_lenlo hst]
    simp [NearerToIdle, bytesToIdle, hst]
  case lenhi => exact nearerToIdle_lenhi p b hst
  case payload =>
    obtain ⟨-, hlt⟩ := (decoderInv_payload hst).1 hs
    exact nearerToIdle_payload p b hst hlt
  case cklo =>
    rw [feedByte_cklo hst]
    simp [NearerToIdle, bytesToIdle, hst]
  case ckhi =>
    rw [feedByte_ckhi hst]
    simp [NearerToIdle, bytesToIdle, hst]
  case foot1 =>
    by_cases hb : b = 0xDC
    · subst hb
      rw [feedByte_foot1_footer hst]
      simp [NearerToIdle, bytesToIdle, hst]
    · rw [feedByte_foot1_other hst hb]
      exact nearerToIdle_toIdle s hidle halt
  case foot2 =>
    rw [feedByte_foot2 hst]
    rcases feedFoot2_cases p b s with ⟨-, e⟩ | ⟨-, -, e⟩ | ⟨-, -, -, -, e⟩ | ⟨-, -, -, e⟩ <;> rw [e] <;>
      exact nearerToIdle_toIdle _ hidle halt

/-- A decoder outside ALT is back in IDLE within `bytesToIdle` bytes, whatever they are. -/
theorem exists_take_idle (p : Params) {bs : List Byte} : ∀ {s : State}, DecoderInv s → s.stage ≠ .alt →
    bytesToIdle s ≤ bs.length → ∃ k, k ≤ bytesToIdle s ∧ (feedBytes p (bs.take k) s).stage = .idle := by
  induction bs with
  | nil =>
    intro s _ halt hlen
    by_cases hidle : s.stage = .idle
    · exact ⟨0, Nat.zero_le _, hidle⟩
    · exact absurd (bytesToIdle_pos hidle halt) (Nat.not_lt.2 hlen)
  | cons b bs ih =>
    intro s hs halt hlen
    by_cases hidle : s.stage = .idle
    · exact ⟨0, Nat.zero_le _, hidle⟩
    · obtain ⟨hless, halt'⟩ := nearerToIdle_feedByte p b hs hidle halt
      rw [List.length_cons] at hlen
      obtain ⟨k, hk, hidle'⟩ := ih (decoderInv_feedByte p b hs) halt' (by omega)
      exact ⟨k + 1, by omega, hidle'⟩

/-- Settles O37: at most `bytesToIdle` bytes are needed, and that is at most 65542. -/
theorem resyncWithin65542Bytes : Obligations.ResyncWithin65542Bytes := by
  intro p s bs hs _ halt hlen
  have hbound := bytesToIdle_le s
  obtain ⟨k, hk, hidle⟩ := exists_take_idle p hs halt (hbound.trans hlen)
  exact ⟨k, hk.trans hbound, hidle⟩

end Sys2Proof.Proofs

/-! The command encoder's commands, one by one (42_command_encoder.md R200 to R206). -/

namespace Sys2Proof.Proofs

open Sys2Proof.Machine Sys2Proof.Claims

/-! ### Operand fields that are reserved whole, or not at all (R91, R93) -/

section
variable {op : Byte} {o : Opcode}

/-- A command without operands is accepted with `A = 0` only. -/
theorem decode_wordOf_noOperand (h : opcodeOf op = some o) (hmask : reservedMask o = BitVec.allOnes 32) (a : Word) :
    decode (wordOf op a) = if a = 0 then .ok (operandsOf o a) else .error .badOperand := by
  rw [decode_wordOf_assigned h, hmask, BitVec.and_allOnes]

/-- A command whose operands fill `A` is accepted with every `A`. -/
theorem decode_wordOf_wholeOperand (h : opcodeOf op = some o) (hmask : reservedMask o = 0) (a : Word) :
    decode (wordOf op a) = .ok (operandsOf o a) := by
  rw [decode_wordOf_assigned h, hmask]
  exact if_pos BitVec.and_zero

end

/-! ### The serialised integer (R200) -/

/-- The byte of a word from bit `k` on, as a number. -/
theorem extractByte_eq_ofNat_div (v : Word) (k : Nat) : v.extractLsb' k 8 = BitVec.ofNat 8 (v.toNat / 2 ^ k) := by
  rw [BitVec.extractLsb', Nat.shiftRight_eq_div_pow]

/-- Settles O20: the lengths agree by definition, and each byte is its quotient of `v`. -/
theorem serUintBytes : Obligations.SerUintBytes := by
  intro v
  have byte0 : v.extractLsb' 0 8 = BitVec.ofNat 8 v.toNat := rfl
  have byte1 : v.extractLsb' 8 8 = BitVec.ofNat 8 (v.toNat / 0x100) := extractByte_eq_ofNat_div v 8
  have byte2 : v.extractLsb' 16 8 = BitVec.ofNat 8 (v.toNat / 0x10000) := extractByte_eq_ofNat_div v 16
  have byte3 : v.extractLsb' 24 8 = BitVec.ofNat 8 (v.toNat / 0x1000000) := extractByte_eq_ofNat_div v 24
  rw [serUint, byte0, byte1, byte2, byte3]

/-! ### Starting a frame (R202) -/

theorem exec_txbegin (cmd : U16) (s : State) :
    exec (.txbegin cmd) s = .next (answered 0 { s with txs := [lowByte cmd, highByte cmd], txact := true }) := rfl

/-- Settles O19. -/
theorem txbeginStagesCommandId : Obligations.TxbeginStagesCommandId := by
  refine ⟨fun s cmd => ?_, decode_wordOf_assigned (o := .txbegin) rfl⟩
  rw [exec_txbegin, lowByte_eq, highByte_eq]

/-! ### Without a staged frame (R203, R204, R206) -/

theorem exec_of_not_txact {i : Instr} {s : State} (hi : needsStagedFrame i = true) (h : s.txact = false) :
    exec i s = .next (refusedWith 3 s) := by
  have hraise : exec i s = .next (raise .txNotActive s) := by
    cases i with
    | txuint v => simp only [exec, execTxuint, h, Bool.false_eq_true, if_false]
    | txbyte b x => simp only [exec, execTxbyte, h, Bool.false_eq_true, if_false]
    | txend => simp only [exec, execTxend, h, Bool.false_eq_true, if_false]
    | _ => cases hi
  rw [hraise, raise_eq_refusedWith rfl]
  rfl

/-! ### With a staged frame: appending to it (R203 to R205) and ending it (R206) -/

section
variable {s : State}

theorem exec_txuint_of_txact (v : Word) (h : s.txact = true) : exec (.txuint v) s = .next (txAppend (serUint v) s) := by
  rw [exec, execTxuint, if_pos h]

theorem exec_txbyte_of_txact (b : Byte) (x : BitVec 24) (h : s.txact = true) :
    exec (.txbyte b x) s = .next (txAppend [b] s) := by
  rw [exec, execTxbyte, if_pos h]

/-- Bytes that fit go behind the staged ones. -/
theorem txAppend_of_fits {bs : List Byte} (h : s.txs.length + bs.length ≤ 65535) :
    txAppend bs s = answered 0 { s with txs := s.txs ++ bs } := by
  rcases txAppend_cases bs s with ⟨-, e⟩ | ⟨hover, -⟩
  · exact e
  · exact absurd h (Nat.not_le.2 hover)

/-- Bytes that do not fit abort the frame; code 4 leaves `CMDERR` (R312). -/
theorem txAppend_of_overflow {bs : List Byte} (h : 65535 < s.txs.length + bs.length) :
    txAppend bs s = stagingAborted s := by
  rcases txAppend_cases bs s with ⟨hfits, -⟩ | ⟨-, e⟩
  · exact absurd h (Nat.not_lt.2 hfits)
  · rw [e, raise, setsCmdErr, Bool.or_false]
    rfl

theorem exec_txend_of_txact (h : s.txact = true) : exec .txend s =
    .next (answered (BitVec.ofNat 32 (encodeFrame s.txs).length)
      { s with txq := s.txq ++ encodeFrame s.txs, txs := [], txact := false }) := by
  rw [exec, execTxend, if_pos h]
  rfl

end

/-- Settles O21: the two outcomes of an append of the serialised integer. -/
theorem txuintAppends : Obligations.TxuintAppends := by
  refine ⟨fun s v => exec_of_not_txact rfl, ?_, ?_, decode_wordOf_wholeOperand (o := .txuint) rfl rfl⟩
  · intro s v hact hfits
    rw [exec_txuint_of_txact v hact, txAppend_of_fits hfits]
  · intro s v hact hover
    rw [exec_txuint_of_txact v hact, txAppend_of_overflow hover]

/-- Settles O22: the two outcomes of an append of one byte, whatever the ignored bits. -/
theorem txbyteAppends : Obligations.TxbyteAppends := by
  refine ⟨fun s b x => exec_of_not_txact rfl, ?_, ?_, decode_wordOf_wholeOperand (o := .txbyte) rfl rfl⟩
  · intro s b x hact hfits
    rw [exec_txbyte_of_txact b x hact, txAppend_of_fits (bs := [b]) hfits]
  · intro s b x hact hfull
    rw [exec_txbyte_of_txact b x hact, txAppend_of_overflow (bs := [b]) (Nat.lt_succ_of_le hfull)]

/-- Settles O23: the answer is the frame's length, 8 more than the payload's. -/
theorem txendQueuesFrame : Obligations.TxendQueuesFrame := by
  refine ⟨fun s => exec_of_not_txact rfl, ?_, decode_wordOf_noOperand (o := .txend) rfl rfl⟩
  intro s hact
  rw [exec_txend_of_txact hact, length_encodeFrame]

end Sys2Proof.Proofs

/-! The screen decoder and BMRD (43_screen_decoder.md R240 to R251). -/

namespace Sys2Proof.Proofs

open Sys2Proof.Machine Sys2Proof.Claims

/-! ### One triplet (R244 to R246, R249) -/

/-- R245, with R249's test of the group itself: no row group beyond 7 exists, 32 included. -/
theorem applyTriplet_of_outside {col g : Byte} (h : 128 ≤ col.toNat ∨ 8 ≤ g.toNat) (bm : Bitmap) (m : Byte) :
    applyTriplet bm m col g = bm :=
  if_pos (h.imp_right (Nat.mul_le_mul_left 8))

/-- R246: what a triplet writes. The rows `8·g + i` with `i < 8` are those whose group `r / 8` is `g`. -/
theorem pixel_applyTriplet (bm : Bitmap) (m col g : Byte) {r c : Nat} (hr : r < 64) (hc : c < 128) :
    pixel (applyTriplet bm m col g) r c =
      if c = col.toNat ∧ r / 8 = g.toNat then m.getLsbD (r % 8) else pixel bm r c := by
  by_cases hout : 128 ≤ col.toNat ∨ 8 ≤ g.toNat
  · have hother : ¬ (c = col.toNat ∧ r / 8 = g.toNat) := by omega
    rw [applyTriplet_of_outside hout, if_neg hother]
  · have hdiscard : ¬ (128 ≤ col.toNat ∨ 64 ≤ 8 * g.toNat) := by omega
    have hrows : (∃ i ∈ List.range 8, r = 8 * g.toNat + i) ↔ r / 8 = g.toNat := by
      constructor
      · rintro ⟨i, hi, rfl⟩
        have := List.mem_range.1 hi
        omega
      · intro hgroup
        exact ⟨r % 8, List.mem_range.2 (Nat.mod_lt r (by decide)), by omega⟩
    rw [applyTriplet, if_neg hdiscard, pixel_setPixels m _ _ (by omega) (by omega) r c _ _ fun _ => List.mem_range.1]
    refine ite_congr (by rw [hrows]) (fun ⟨_, hgroup⟩ => ?_) fun _ => rfl
    rw [← hgroup, Nat.mod_eq_sub]

/-- Settles O38. -/
theorem tripletWritesItsGroup : Obligations.TripletWritesItsGroup :=
  fun bm m col g _ _ => pixel_applyTriplet bm m col g

/-! ### The triplets of an update, in payload order (R244, R248) -/

theorem applyTriplets_cons (bm : Bitmap) (m col g : Byte) (rest : List Byte) :
    applyTriplets bm (m :: col :: g :: rest) = applyTriplets (applyTriplet bm m col g) rest := rfl

theorem applyTriplets_of_no_triplet {bm : Bitmap} {T : List Byte} (h : ∀ m col g rest, T ≠ m :: col :: g :: rest) :
    applyTriplets bm T = bm := by
  rw [applyTriplets]
  exact h

theorem namesGroup_cons (m col g : Byte) (rest : List Byte) (c k : Nat) :
    NamesGroup (m :: col :: g :: rest) c k ↔ (col.toNat = c ∧ g.toNat = k) ∨ NamesGroup rest c k := by
  constructor
  · rintro ⟨_ | t, hlen, hcol, hgroup⟩
    · exact .inl ⟨hcol, hgroup⟩
    · exact .inr ⟨t, by simp only [List.length_cons] at hlen; omega, hcol, hgroup⟩
  · rintro (⟨hcol, hgroup⟩ | ⟨t, hlen, hcol, hgroup⟩)
    · exact ⟨0, by simp, hcol, hgroup⟩
    · exact ⟨t + 1, by simp only [List.length_cons]; omega, hcol, hgroup⟩

/-- R248: a place that no triplet names keeps its pixels. -/
theorem pixel_applyTriplets_of_unnamed {r c : Nat} (hr : r < 64) (hc : c < 128) (bm : Bitmap) (T : List Byte)
    (h : ¬ NamesGroup T c (r / 8)) : pixel (applyTriplets bm T) r c = pixel bm r c := by
  induction bm, T using applyTriplets.induct with
  | case1 bm m col g rest ih =>
    rw [namesGroup_cons, not_or] at h
    obtain ⟨hfirst, hrest⟩ := h
    rw [applyTriplets_cons, ih hrest, pixel_applyTriplet bm m col g hr hc,
      if_neg fun ⟨hcol, hgroup⟩ => hfirst ⟨hcol.symm, hgroup.symm⟩]
  | case2 T bm hshort => rw [applyTriplets_of_no_triplet hshort]

/-- Whole triplets are applied before what follows them. -/
theorem applyTriplets_append (bm : Bitmap) (T U : List Byte) (h : T.length % 3 = 0) :
    applyTriplets bm (T ++ U) = applyTriplets (applyTriplets bm T) U := by
  induction bm, T using applyTriplets.induct with
  | case1 bm m col g rest ih => exact ih ((Nat.add_mod_right rest.length 3).symm.trans h)
  | case2 T bm hshort =>
    match T, h with
    | [], _ => rfl
    | m :: col :: g :: rest, _ => exact absurd rfl (hshort m col g rest)

/-- R248: the last triplet that names a place decides its pixels. -/
theorem pixel_applyTriplets_of_last (bm : Bitmap) (m : Byte) {col g : Byte} {T T' : List Byte} {r : Nat}
    (hr : r < 64) (hcol : col.toNat < 128) (hT : T.length % 3 = 0) (hgroup : g.toNat = r / 8)
    (hlast : ¬ NamesGroup T' col.toNat (r / 8)) :
    pixel (applyTriplets bm (T ++ [m, col, g] ++ T')) r col.toNat = m.getLsbD (r % 8) := by
  rw [List.append_assoc, applyTriplets_append bm T _ hT]
  have hdecider : applyTriplets (applyTriplets bm T) ([m, col, g] ++ T') =
      applyTriplets (applyTriplet (applyTriplets bm T) m col g) T' := applyTriplets_cons ..
  rw [hdecider, pixel_applyTriplets_of_unnamed hr hcol _ _ hlast,
    pixel_applyTriplet _ m col g hr hcol, if_pos ⟨rfl, hgroup.symm⟩]

/-! ### The two modes (R243) -/

theorem screenApply_full (T : List Byte) (bm : Bitmap) : screenApply 0 T bm = applyTriplets Bitmap.zero T := rfl

theorem screenApply_incremental {d : Byte} (h : d ≠ 0) (T : List Byte) (bm : Bitmap) :
    screenApply d T bm = applyTriplets bm T := by
  rw [screenApply, if_neg h]

/-- Settles O39: the last writer decides whichever bitmap the update starts from. -/
theorem tripletsLastWriterWins : Obligations.TripletsLastWriterWins := by
  constructor
  · intro d T bm r c hd hr hc hunnamed
    rw [screenApply_incremental hd, pixel_applyTriplets_of_unnamed hr hc bm T hunnamed]
  · rintro d m col g T T' bm r _ hr hc hT rfl hgroup hlast
    exact pixel_applyTriplets_of_last _ m hr hc hT hgroup hlast

/-- Settles O40. -/
theorem fullUpdateForgetsBitmap : Obligations.FullUpdateForgetsBitmap := by
  refine ⟨fun T bm bm' => ?_, fun T bm r c hr hc hunnamed => ?_, fun d d' T bm hd hd' => ?_, fun d bm hd => ?_⟩
  · rw [screenApply_full, screenApply_full]
  · rw [screenApply_full, pixel_applyTriplets_of_unnamed hr hc _ T hunnamed, pixel_zero]
  · rw [screenApply_incremental hd, screenApply_incremental hd']
  · exact screenApply_incremental hd [] bm

/-! ### Reading the bitmap (R250) -/

theorem exec_bmrd_of_inside {col group : Byte} (hcol : col.toNat < 128) (hgroup : group.toNat < 8) (s : State) :
    exec (.bmrd col group) s = .next (answered ((columnByte s.bm col.toNat group.toNat).setWidth 32) s) :=
  congrArg Host.Outcome.next (if_neg (not_or.2 ⟨Nat.not_le.2 hcol, Nat.not_le.2 hgroup⟩))

theorem exec_bmrd_of_outside {col group : Byte} (h : 128 ≤ col.toNat ∨ 8 ≤ group.toNat) (s : State) :
    exec (.bmrd col group) s = .next (refusedWith 2 s) := by
  rw [exec, execBmrd, if_pos h, raise_eq_refusedWith rfl]
  rfl

/-- R246, R250: BMRD packs a column byte as a triplet's bitmask does. -/
theorem columnByte_screenApply_of_last (d m : Byte) {col g : Byte} {T T' : List Byte} (bm : Bitmap)
    (hcol : col.toNat < 128) (hg : g.toNat < 8) (hT : T.length % 3 = 0) (hlast : ¬ NamesGroup T' col.toNat g.toNat) :
    columnByte (screenApply d (T ++ [m, col, g] ++ T') bm) col.toNat g.toNat = m := by
  apply BitVec.eq_of_getLsbD_eq
  intro i hi
  have hgroup : g.toNat = (8 * g.toNat + i) / 8 := by omega
  have hbit : (8 * g.toNat + i) % 8 = i := by omega
  rw [getLsbD_columnByte _ _ _ _ hi, screenApply,
    pixel_applyTriplets_of_last _ m (by omega) hcol hT hgroup (hgroup ▸ hlast), hbit]

/-- Settles O43. -/
theorem bmrdReturnsTripletMask : Obligations.BmrdReturnsTripletMask := by
  rintro s _ m col g T T' d bm hcol hg hT hlast hbm rfl
  rw [exec_bmrd_of_inside hcol hg, hbm, columnByte_screenApply_of_last d m bm hcol hg hT hlast]

/-- Settles O42. -/
theorem bmrdAnswersColumnByte : Obligations.BmrdAnswersColumnByte := by
  refine ⟨fun s col group hcol hgroup => ?_, fun s col group h => exec_bmrd_of_outside h s,
    decode_wordOf_assigned (o := .bmrd) rfl⟩
  exact ⟨_, exec_bmrd_of_inside hcol hgroup s, fun i hi => getLsbD_columnByte s.bm _ _ i hi⟩

/-! ### The dispatch (R240, R242, R251) -/

theorem screenFormatOk_iff (args : List Byte) :
    screenFormatOk args = true ↔ 3 ≤ args.length ∧ args.length % 3 = 0 := by
  rw [screenFormatOk, Bool.and_eq_true, decide_eq_true_iff, decide_eq_true_iff]

theorem screenDispatch_of_format_ok {args : List Byte} (hlen : 3 ≤ args.length) (hmod : args.length % 3 = 0)
    (s : State) :
    screenDispatch args s =
      { s with bm := screenApply (args.getD 2 0) (args.drop 3) s.bm, evq := s.evq ++ [.bitmapChanged] } := by
  rcases screenDispatch_cases args s with ⟨-, e⟩ | ⟨hbad, -⟩
  · exact e
  · exact absurd ((screenFormatOk_iff args).2 ⟨hlen, hmod⟩) (Bool.eq_false_iff.1 hbad)

theorem screenDispatch_of_format_bad {args : List Byte} (h : args.length < 3 ∨ args.length % 3 ≠ 0) (s : State) :
    screenDispatch args s =
      { s with flags := { s.flags with fmterr := true }, evq := s.evq ++ [.formatError] } := by
  rcases screenDispatch_cases args s with ⟨hok, -⟩ | ⟨-, e⟩
  · obtain ⟨hlen, hmod⟩ := (screenFormatOk_iff args).1 hok
    exact absurd hmod (h.resolve_left (Nat.not_lt.2 hlen))
  · exact e

/-- R251: the check reads the payload's length, and the update reads the payload from its third byte on. -/
theorem screenDispatch_offset_irrelevant (o0 o1 o0' o1' : Byte) (rest : List Byte) (s : State) :
    screenDispatch (o0 :: o1 :: rest) s = screenDispatch (o0' :: o1' :: rest) s := by
  have hformat : screenFormatOk (o0 :: o1 :: rest) = screenFormatOk (o0' :: o1' :: rest) := rfl
  rw [screenDispatch, screenDispatch, hformat]
  rfl

/-- Settles O41. -/
theorem screenDispatchChecksFormat : Obligations.ScreenDispatchChecksFormat := by
  refine ⟨fun s o0 o1 d T hT => ?_, fun s args h => screenDispatch_of_format_bad h s,
    fun s o0 o1 o0' o1' rest => screenDispatch_offset_irrelevant o0 o1 o0' o1' rest s⟩
  exact screenDispatch_of_format_ok (args := o0 :: o1 :: d :: T) (Nat.le_add_left 3 T.length)
    ((Nat.add_mod_right T.length 3).trans hT) s

end Sys2Proof.Proofs

/-! Session control and register access (44_session_control.md R280 to R284). -/

namespace Sys2Proof.Proofs

open Sys2Proof.Machine Sys2Proof.Claims

/-! ### NOP, PRST and SRST (R280, R281, R283) -/

theorem exec_nop (s : State) : exec .nop s = .next (answered 0 s) := rfl

theorem exec_prst (s : State) : exec .prst s = .next (answered 0 (atIdle s)) := rfl

theorem exec_srst (s : State) : exec .srst s = .next (answered 0 (resetElements s)) := rfl

theorem atIdle_of_idle {s : State} (hstage : s.stage = .idle) (hlen : s.len = 0) (hrcnt : s.rcnt = 0)
    (hacc : s.acc = []) : atIdle s = s := by
  cases s
  cases hstage
  cases hlen
  cases hrcnt
  cases hacc
  rfl

/-- Settles O10. -/
theorem nopAnswersZero : Obligations.NopAnswersZero :=
  ⟨exec_nop, decode_wordOf_noOperand (o := .nop) rfl rfl⟩

/-- Settles O11: a decoder that is idle already is at the values PRST writes. -/
theorem prstResetsDecoderOnly : Obligations.PrstResetsDecoderOnly := by
  refine ⟨exec_prst, fun s hstage hlen hrcnt hacc => ?_, decode_wordOf_noOperand (o := .prst) rfl rfl⟩
  rw [exec_prst, atIdle_of_idle hstage hlen hrcnt hacc]

/-- Settles O12: the response, appended last, leaves the reset elements as they are. -/
theorem srstResetsEveryElement : Obligations.SrstResetsEveryElement := by
  refine ⟨fun s => ⟨answered 0 (resetElements s), exec_srst s, rfl, rfl, rfl, rfl, rfl, rfl, rfl, rfl, rfl, rfl,
    pixel_zero, rfl, rfl, ?_⟩, decode_wordOf_noOperand (o := .srst) rfl rfl⟩
  exact List.getLast?_concat

/-! ### The register map (R37) -/

/-- The number R37 gives a register. -/
def registerNumber : RegName → Nat
  | .status => 0x00
  | .cfg => 0x01
  | .len => 0x02
  | .rcnt => 0x03
  | .crcCalc => 0x04
  | .crcRecv => 0x05
  | .txlen => 0x06
  | .key i => 0x10 + i.val

theorem toNat_of_regOf {reg : Byte} {r : RegName} (h : regOf reg = some r) : reg.toNat = registerNumber r := by
  dsimp only [regOf] at h
  split_ifs at h with hstatus hcfg hlen hrcnt hcalc hrecv htxlen hkey <;> cases h
  · exact hstatus
  · exact hcfg
  · exact hlen
  · exact hrcnt
  · exact hcalc
  · exact hrecv
  · exact htxlen
  · exact (Nat.add_sub_cancel' hkey.1).symm

theorem regOf_of_toNat {reg : Byte} {r : RegName} (h : reg.toNat = registerNumber r) : regOf reg = some r := by
  cases r with
  | key i =>
    have hnumber : reg.toNat = 0x10 + i.val := h
    have hkey : 0x10 ≤ 0x10 + i.val ∧ 0x10 + i.val ≤ 0x1F := by omega
    have hbelow (n : Nat) (hn : n < 0x10) : 0x10 + i.val ≠ n := by omega
    simp [regOf, hnumber, hkey, hbelow]
  | _ => simp [regOf, h, registerNumber]

theorem registerNumber_assigned (r : RegName) :
    registerNumber r ≤ 0x06 ∨ (0x10 ≤ registerNumber r ∧ registerNumber r ≤ 0x1F) := by
  cases r with
  | key i => exact .inr (by simp only [registerNumber]; omega)
  | _ => exact .inl (by decide)

theorem regOf_of_unassigned {reg : Byte} (h : (0x07 ≤ reg.toNat ∧ reg.toNat ≤ 0x0F) ∨ 0x20 ≤ reg.toNat) :
    regOf reg = none := by
  refine Option.eq_none_iff_forall_ne_some.2 fun r hr => ?_
  have hnumber := toNat_of_regOf hr
  have hassigned := registerNumber_assigned r
  omega

/-! ### Reading a register (R282) -/

theorem bitAt_eq_bit_shiftLeft (b : Bool) (pos : Nat) : bitAt b pos = bit b <<< pos := by
  cases b <;> rfl

theorem stageCode_eq_stageNumber (st : Stage) : st.code.setWidth 32 = BitVec.ofNat 32 (stageNumber st) := by
  cases st <;> rfl

theorem statusWord_eq_statusValue (s : State) : statusWord s = statusValue s := by
  simp only [statusWord, statusValue, stageCode_eq_stageNumber, bitAt_eq_bit_shiftLeft, evPend]

theorem cfgWord_eq (c : Cfg) : cfgWord c = bit c.strict ||| bit c.irqen <<< 1 := by
  rw [cfgWord, bitAt_eq_bit_shiftLeft, bitAt_eq_bit_shiftLeft, BitVec.shiftLeft_zero]

/-- A staged frame's length is below `2^16` (R34), so the 16-bit register loses nothing of it. -/
theorem readReg_txlen {s : State} (h : s.txs.length ≤ 65535) : readReg .txlen s = BitVec.ofNat 32 s.txs.length :=
  BitVec.setWidth_ofNat_of_le_of_lt (by decide) (Nat.lt_succ_of_le h)

theorem readReg_key (i : Fin 16) (s : State) : readReg (.key i) s = (keyTable.getD i 0).setWidth 32 := by
  rw [readReg, keyByte_eq_keyTable, Nat.mod_eq_of_lt i.isLt]

theorem exec_rdreg_of_assigned {reg : Byte} {r : RegName} (h : reg.toNat = registerNumber r) (s : State) :
    exec (.rdreg reg) s = .next (answered (readReg r s) s) := by
  rw [exec, execRdreg, regOf_of_toNat h]
  rfl

theorem exec_rdreg_of_unassigned {reg : Byte} (h : (0x07 ≤ reg.toNat ∧ reg.toNat ≤ 0x0F) ∨ 0x20 ≤ reg.toNat)
    (s : State) : exec (.rdreg reg) s = .next (refusedWith 2 s) := by
  rw [exec, execRdreg, regOf_of_unassigned h, raise_eq_refusedWith rfl]
  rfl

/-- Settles O13: the registers in the order of their numbers, the numbers of none, the decoder. -/
theorem rdregReturnsRegister : Obligations.RdregReturnsRegister := by
  refine ⟨fun s => ?status, fun s => ?cfg, exec_rdreg_of_assigned (r := .len) rfl,
    exec_rdreg_of_assigned (r := .rcnt) rfl, exec_rdreg_of_assigned (r := .crcCalc) rfl,
    exec_rdreg_of_assigned (r := .crcRecv) rfl, fun s htxs => ?txlen, fun s i hi => ?key,
    fun s reg h => exec_rdreg_of_unassigned h s, decode_wordOf_assigned (o := .rdreg) rfl⟩
  case status => rw [exec_rdreg_of_assigned (r := .status) rfl, readReg, statusWord_eq_statusValue]
  case cfg => rw [exec_rdreg_of_assigned (r := .cfg) rfl, readReg, cfgWord_eq]
  case txlen => rw [exec_rdreg_of_assigned (r := .txlen) rfl, readReg_txlen htxs]
  case key =>
    have hnumber : (BitVec.ofNat 8 (0x10 + i)).toNat = registerNumber (.key ⟨i, hi⟩) := by
      rw [BitVec.toNat_ofNat, Nat.mod_eq_of_lt (by omega), registerNumber]
    rw [exec_rdreg_of_assigned hnumber, readReg_key]

/-! ### Writing a register (R284) -/

/-- A 1 clears, a 0 leaves alone. -/
theorem clearBy_eq (f : Flags) (value : U16) :
    f.clearBy value =
      { fmterr := if value.getLsbD 8 then false else f.fmterr
        crcerr := if value.getLsbD 9 then false else f.crcerr
        short := if value.getLsbD 10 then false else f.short
        ovf := if value.getLsbD 11 then false else f.ovf
        altseen := if value.getLsbD 12 then false else f.altseen
        cmderr := if value.getLsbD 13 then false else f.cmderr
        txovf := if value.getLsbD 14 then false else f.txovf } := by
  have hclear (flag one : Bool) : (flag && !one) = if one then false else flag := by
    cases one
    · exact Bool.and_true flag
    · exact Bool.and_false flag
  simp only [Flags.clearBy, hclear]

theorem exec_wrreg_status (value : U16) (s : State) :
    exec (.wrreg 0x00 value) s = .next (answered 0 { s with flags := s.flags.clearBy value }) := rfl

theorem exec_wrreg_cfg (value : U16) (s : State) : exec (.wrreg 0x01 value) s =
    .next (answered 0 { s with cfg := { strict := value.getLsbD 0, irqen := value.getLsbD 1 } }) := rfl

theorem exec_wrreg_of_readOnly {reg : Byte} (h : 0x02 ≤ reg.toNat) (value : U16) (s : State) :
    exec (.wrreg reg value) s = .next (refusedWith 2 s) := by
  have hnumber (r : RegName) (hr : registerNumber r < 2) : regOf reg ≠ some r := fun e => by
    have := toNat_of_regOf e
    omega
  rw [exec, execWrreg]
  split
  · next e => exact absurd e (hnumber .status (by decide))
  · next e => exact absurd e (hnumber .cfg (by decide))
  · rw [raise_eq_refusedWith rfl]
    rfl

/-- Settles O14: the two registers that are written, every other number, the decoder. -/
theorem wrregWritesStatusOrCfg : Obligations.WrregWritesStatusOrCfg := by
  refine ⟨fun s value => ?_, fun s value => exec_wrreg_cfg value s,
    fun s reg value h => exec_wrreg_of_readOnly h value s, decode_wordOf_assigned (o := .wrreg) rfl⟩
  rw [exec_wrreg_status, clearBy_eq]

end Sys2Proof.Proofs

/-! Refused operands, the engine that never stops, and the interrupt (60_exceptions.md R311 to R320). -/

namespace Sys2Proof.Proofs

open Sys2Proof.Machine Sys2Proof.Claims

/-! ### Operands that name no unit (R311, R313) -/

theorem unassigned_of_regAssigned_false {reg : Byte} (h : regAssigned reg = false) :
    (0x07 ≤ reg.toNat ∧ reg.toNat ≤ 0x0F) ∨ 0x20 ≤ reg.toNat := by
  simp only [regAssigned, Bool.or_eq_false_iff, Bool.and_eq_false_iff, decide_eq_false_iff_not] at h
  omega

theorem readOnly_of_regWritable_false {reg : Byte} (h : regWritable reg = false) : 0x02 ≤ reg.toNat :=
  Nat.not_le.1 (of_decide_eq_false h)

theorem outside_of_columnByteExists_false {col group : Byte} (h : columnByteExists col group = false) :
    128 ≤ col.toNat ∨ 8 ≤ group.toNat := by
  simpa only [columnByteExists, Bool.and_eq_false_iff, decide_eq_false_iff_not, Nat.not_lt] using h

/-- Only RDREG, WRREG and BMRD have operands that name a unit. -/
theorem exec_of_not_wellFormed {i : Instr} (h : i.wellFormed = false) (s : State) :
    exec i s = .next (refusedWith 2 s) := by
  cases i with
  | rdreg reg => exact exec_rdreg_of_unassigned (unassigned_of_regAssigned_false h) s
  | wrreg reg value => exact exec_wrreg_of_readOnly (readOnly_of_regWritable_false h) value s
  | bmrd col group => exact exec_bmrd_of_outside (outside_of_columnByteExists_false h) s
  | _ => cases h

/-! ### What is not refused -/

/-- R164: FEED has no response. -/
theorem exec_feed_rspq {b : Byte} {s t : State} (h : exec (.feed b) s = .next t) : t.rspq = s.rspq := by
  cases h
  obtain ⟨-, -, -, -, -, hrspq, -⟩ := feedByte_keeps Config.params b s
  exact hrspq

/-- Of an accepted command, only ill-formed operands and a missing or overfull staged frame give an error response (R311). -/
theorem exec_answers_ok {i : Instr} {s t : State} (hfeed : ¬ ∃ b, i = .feed b) (hwf : i.wellFormed = true)
    (hstaged : needsStagedFrame i = false) (h : exec i s = .next t) : ∃ v, t.rspq = s.rspq ++ [okRsp v] := by
  rcases exec_cases h with ⟨b, hb, -⟩ | ⟨-, rfl⟩ | ⟨-, rfl⟩ | ⟨_, -, rfl⟩ | ⟨_, -, rfl⟩ | ⟨_, -, rfl⟩ |
    ⟨_, -, -, hi⟩ | ⟨rfl, -⟩ | ⟨-, -, hi⟩ | ⟨hill, -⟩ | ⟨⟨v, rfl⟩, -⟩
  · exact absurd ⟨b, hb⟩ hfeed
  · exact ⟨0, rfl⟩
  · exact ⟨0, rfl⟩
  · exact ⟨0, rfl⟩
  · exact ⟨0, rfl⟩
  · exact ⟨0, rfl⟩
  · rcases hi with ⟨_, rfl, -⟩ | ⟨_, _, rfl, -⟩ <;> cases hstaged
  · cases hstaged
  · rcases hi with ⟨_, rfl⟩ | ⟨_, _, rfl⟩ | rfl <;> cases hstaged
  · cases hwf.symm.trans hill
  · exact ⟨v, rfl⟩

/-- R312: a transaction that sets CMDERR is a refused command. -/
theorem exec_sets_cmderr {i : Instr} {s t : State} (h : exec i s = .next t) (h0 : s.flags.cmderr = false)
    (h1 : t.flags.cmderr = true) : (∀ b, i ≠ .feed b) ∧ RefusedWithCmderr s t := by
  rcases exec_flags h with ⟨-, e⟩ | ⟨v, -, e⟩ | hset
  · rw [e] at h1
    cases h1
  · rw [e, Flags.clearBy, h0] at h1
    cases h1
  · exact (hset .cmderr).2 h0 h1

/-- The last response tells a refusal from a success. -/
theorem not_refusedWithCmderr_of_okRsp {s t : State} {v : Word} (h : t.rspq = s.rspq ++ [okRsp v]) :
    ¬ RefusedWithCmderr s t := by
  rintro ⟨code, -, hrefused⟩
  have hrsp : [okRsp v] = [errRsp code] := List.append_cancel_left (h.symm.trans hrefused)
  cases hrsp

/-- Settles O59: the refusals, then the responses of the rest, which leave no cause for CMDERR. -/
theorem illFormedOperandsRefused : Obligations.IllFormedOperandsRefused := by
  refine ⟨fun i s h => exec_of_not_wellFormed h s, fun i s t hwf hstaged h => ?_⟩
  by_cases hfeed : ∃ b, i = .feed b
  · obtain ⟨b, rfl⟩ := hfeed
    refine ⟨.inl ⟨⟨b, rfl⟩, exec_feed_rspq h⟩, fun h1 => Bool.of_not_eq_false fun h0 => ?_⟩
    exact (exec_sets_cmderr h h0 h1).1 b rfl
  · obtain ⟨v, hrsp⟩ := exec_answers_ok hfeed hwf hstaged h
    refine ⟨.inr ⟨hfeed, v, hrsp⟩, fun h1 => Bool.of_not_eq_false fun h0 => ?_⟩
    exact not_refusedWithCmderr_of_okRsp hrsp (exec_sets_cmderr h h0 h1).2

/-! ### Every step goes on (R313, R316) -/

/-- Settles O7. -/
theorem stepRunsDecodedInstruction : Obligations.StepRunsDecodedInstruction :=
  fun _ _ _ _ => step_of_decode_ok

/-- R316: whatever is offered next, the step answers a next state. -/
theorem step_continues (s : State) : Continues (step s) := by
  cases ho : s.offers with
  | nil => exact ⟨s, step_of_no_offer ho⟩
  | cons o rest =>
    cases o with
    | input w =>
      cases hd : decode w with
      | ok i => exact step_of_decode_ok ho hd ▸ exec_continues i _
      | error e => exact ⟨_, step_of_decode_error ho hd⟩
    | rspReady => exact ⟨_, step_of_rspReady ho⟩
    | evtReady => exact ⟨_, step_of_evtReady ho⟩
    | txReady => exact ⟨_, step_of_txReady ho⟩
    | rst => exact ⟨_, step_of_rst ho⟩

/-- Settles O9. -/
theorem engineNeverStops : Obligations.EngineNeverStops := by
  refine ⟨fun i s => ?_, step_continues⟩
  obtain ⟨t, ht⟩ := exec_continues i s
  exact ⟨t, ht, step_continues t⟩

/-! ### The interrupt (R320) -/

theorem evPend_iff (s : State) : evPend s = true ↔ s.evq ≠ [] := by
  rw [evPend, Bool.not_eq_true', List.isEmpty_eq_false_iff]

theorem signals_irq_iff (s : State) : (signals false s).irq = true ↔ s.cfg.irqen = true ∧ s.evq ≠ [] := by
  rw [← evPend_iff]
  exact Bool.and_eq_true_iff

/-- Settles O47: `irq` is a level, so the step that fills the queue of an unchanged configuration raises it. -/
theorem irqFollowsEventQueue : Obligations.IrqFollowsEventQueue := by
  refine ⟨signals_irq_iff, fun _ => rfl, fun s t _ hirqen hcfg hempty hevent => ⟨?_, ?_⟩⟩
  · exact Bool.eq_false_of_not_eq_true fun hirq => ((signals_irq_iff s).1 hirq).2 hempty
  · exact (signals_irq_iff t).2 ⟨hcfg ▸ hirqen, hevent⟩

end Sys2Proof.Proofs

/-! The `rst` edge and SRST, the depths of a circuit's queues, and the independence of the two directions
(70_reset_and_hazards.md R351, R361, R363). -/

namespace Sys2Proof.Proofs

open Sys2Proof.Machine Sys2Proof.Claims

/-! ### Reset (R283, R351) -/

/-- Settles O51: the free value of log entry 4 picks which of the two response queues an `rst` edge leaves. -/
theorem rstEdgeResets : Obligations.RstEdgeResets :=
  ⟨fun s _ h => ⟨if Config.rstKeepsResponses then s.rspq else [], ite_eq_or_eq _ _ _, step_of_rst h⟩,
    fun _ => rfl, exec_srst⟩

/-! ### Back-pressure of a finite circuit (R361) -/

theorem fits_some_iff (depth used need : Nat) : fits (some depth) used need = true ↔ used + need ≤ depth :=
  decide_eq_true_iff

theorem circuitRxReady_some_iff (d : Nat) (s : State) :
    circuitRxReady (some d) false s = true ↔ evqBytes s + feedNeed s ≤ d := fits_some_iff ..

theorem circuitCmdReady_some_iff (d : Nat) (s : State) :
    circuitCmdReady (some d) false s = true ↔ s.txq.length + txendNeed s ≤ d := fits_some_iff ..

theorem evqBytes_of_evq_eq {s t : State} (h : t.evq = s.evq) : evqBytes t = evqBytes s := by
  rw [evqBytes, h, evqBytes]

theorem evqBytes_emit (e : Event) (s : State) : evqBytes (emit e s) = evqBytes s + e.record.length := by
  rw [evqBytes, emit_evq, List.map_append, List.sum_append, List.map_singleton, List.sum_singleton, evqBytes]

/-- R101. -/
theorem length_record_frameEvent (ok : Bool) (s : State) :
    (frameEvent ok s).record.length = (s.acc.length - 2) + 10 := by
  simp only [frameEvent, record_frame_eq, recordHeader, recordTrailer, List.length_append, List.length_cons,
    List.length_nil, List.length_drop]
  omega

/-- R102: either event of the screen decoder has a record of one byte. -/
theorem evqBytes_screenDispatch (args : List Byte) (s : State) :
    evqBytes (screenDispatch args s) = evqBytes s + 1 := by
  rcases screenDispatch_cases args s with ⟨-, e⟩ | ⟨-, e⟩ <;> rw [e]
  · exact evqBytes_emit .bitmapChanged s
  · exact evqBytes_emit .formatError s

theorem evqBytes_complete_le (p : Params) (ok : Bool) (s : State) :
    evqBytes (complete p ok s) ≤ evqBytes s + ((s.acc.length - 2 + 10) + 1) := by
  have hframe : evqBytes (emit (frameEvent ok s) s) = evqBytes s + (s.acc.length - 2 + 10) := by
    rw [evqBytes_emit, length_record_frameEvent]
  rw [complete_eq]
  split
  · rw [evqBytes_screenDispatch, hframe, Nat.add_assoc]
  · omega

/-- R161: a FEED at FOOT2 emits only where it completes a frame. -/
theorem evqBytes_feedFoot2_le (p : Params) (b : Byte) {s : State} (hst : s.stage = .foot2) :
    evqBytes (feedFoot2 p b s) ≤ evqBytes s + feedNeed s := by
  rcases feedFoot2_cases p b s with ⟨-, e⟩ | ⟨-, -, e⟩ | ⟨-, -, -, -, e⟩ | ⟨-, hacc, -, e⟩ <;> rw [e]
  · exact Nat.le_add_right _ _
  · exact Nat.le_add_right _ _
  · exact Nat.le_add_right _ _
  · rw [feedNeed, if_pos ⟨hst, hacc⟩]
    exact evqBytes_complete_le p _ (reported s)

/-- A FEED appends at most the event bytes that `rx_ready` reserved for it. -/
theorem evqBytes_feedByte_le (p : Params) (b : Byte) (s : State) :
    evqBytes (feedByte p b s) ≤ evqBytes s + feedNeed s := by
  rcases feedByte_report_cases p b s with ⟨e, -⟩ | ⟨-, -, e, -⟩ | ⟨-, -, e, -⟩ | ⟨hst, e⟩
  · exact (evqBytes_of_evq_eq e).trans_le (Nat.le_add_right _ _)
  · exact (evqBytes_of_evq_eq e).trans_le (Nat.le_add_right _ _)
  · exact (evqBytes_of_evq_eq e).trans_le (Nat.le_add_right _ _)
  · exact e ▸ evqBytes_feedFoot2_le p b hst

/-- A transaction appends at most the transmit bytes that `cmd_ready` reserved for a TXEND. -/
theorem exec_txq_length_le {i : Instr} {s t : State} (h : exec i s = .next t) :
    t.txq.length ≤ s.txq.length + txendNeed s := by
  rcases exec_txq h with e | e | ⟨hact, e⟩ <;> rw [e]
  · exact Nat.le_add_right _ _
  · exact Nat.zero_le _
  · rw [List.length_append, length_encodeFrame, txendNeed, if_pos hact]

theorem step_cmd_txq_length_le {s t : State} {w : CmdWord} {rest : List Offer}
    (ho : s.offers = .input (.cmd w) :: rest) (h : step s = .next t) :
    t.txq.length ≤ s.txq.length + txendNeed s := by
  cases hd : decode (.cmd w) with
  | ok i =>
    rw [step_of_decode_ok ho hd] at h
    exact exec_txq_length_le (s := { s with offers := rest }) h
  | error e =>
    rw [step_of_decode_error ho hd] at h
    cases h
    exact Nat.le_add_right _ _

/-- Settles O49: each step stays within what the ready function reserved. -/
theorem backPressureNeverOverflows : Obligations.BackPressureNeverOverflows := by
  refine ⟨fun d s t b rest ho hready h => ?_, fun d s t w rest ho hready h => ?_, fun _ => ⟨rfl, rfl⟩⟩
  · rw [step_of_decode_ok ho rfl, exec_feed] at h
    cases h
    exact (evqBytes_feedByte_le _ b { s with offers := rest }).trans ((circuitRxReady_some_iff d s).1 hready)
  · exact (step_cmd_txq_length_le ho h).trans ((circuitCmdReady_some_iff d s).1 hready)

/-! ### The transmit side of the state, which FEED neither reads nor writes (R363) -/

/-- The values of the fields that the transmit-side commands read and write. -/
structure TransmitSide where
  txact : Bool
  txs : List Byte
  txq : List Byte
  rspq : List Response
  cmderr : Bool
  txovf : Bool

def transmitSide (s : State) : TransmitSide :=
  { txact := s.txact, txs := s.txs, txq := s.txq, rspq := s.rspq, cmderr := s.flags.cmderr, txovf := s.flags.txovf }

def withTransmitSide (u : TransmitSide) (s : State) : State :=
  { s with
    txact := u.txact, txs := u.txs, txq := u.txq, rspq := u.rspq
    flags := { s.flags with cmderr := u.cmderr, txovf := u.txovf } }

section
variable (u : TransmitSide) (p : Params) (b : Byte) (s : State)

theorem feedIdle_withTransmitSide : feedIdle p b (withTransmitSide u s) = withTransmitSide u (feedIdle p b s) := by
  unfold feedIdle
  split
  · rfl
  · split <;> rfl

theorem feedSync2_withTransmitSide : feedSync2 b (withTransmitSide u s) = withTransmitSide u (feedSync2 b s) := by
  unfold feedSync2
  split <;> rfl

theorem feedLenhi_withTransmitSide : feedLenhi p b (withTransmitSide u s) = withTransmitSide u (feedLenhi p b s) := by
  unfold feedLenhi
  dsimp only
  rw [apply_ite (withTransmitSide u), apply_ite (withTransmitSide u)]
  rfl

theorem feedFoot1_withTransmitSide : feedFoot1 b (withTransmitSide u s) = withTransmitSide u (feedFoot1 b s) := by
  unfold feedFoot1
  split <;> rfl

theorem screenDispatch_withTransmitSide (args : List Byte) :
    screenDispatch args (withTransmitSide u s) = withTransmitSide u (screenDispatch args s) := by
  unfold screenDispatch
  split <;> rfl

theorem complete_withTransmitSide (ok : Bool) :
    complete p ok (withTransmitSide u s) = withTransmitSide u (complete p ok s) := by
  rw [complete_eq, complete_eq, apply_ite (withTransmitSide u), ← screenDispatch_withTransmitSide]
  rfl

/-- The checks of FOOT2 read `ACC`, the two checksums and `CFG`. -/
theorem feedFoot2_withTransmitSide : feedFoot2 p b (withTransmitSide u s) = withTransmitSide u (feedFoot2 p b s) := by
  have hcomplete := complete_withTransmitSide u p (reported s) (decide (s.crcCalc = s.crcRecv))
  unfold feedFoot2
  dsimp only
  rw [apply_ite (withTransmitSide u), apply_ite (withTransmitSide u), apply_ite (withTransmitSide u)]
  exact congrArg _ (congrArg _ (congrArg _ (congrArg toIdle hcomplete)))

/-- FEED is the same whatever the transmit side holds, stage by stage. -/
theorem feedByte_withTransmitSide : feedByte p b (withTransmitSide u s) = withTransmitSide u (feedByte p b s) := by
  have hst : (withTransmitSide u s).stage = s.stage := rfl
  unfold feedByte
  rw [hst]
  cases s.stage with
  | idle => exact feedIdle_withTransmitSide u p b s
  | sync2 => exact feedSync2_withTransmitSide u b s
  | lenhi => exact feedLenhi_withTransmitSide u p b s
  | foot1 => exact feedFoot1_withTransmitSide u b s
  | foot2 => exact feedFoot2_withTransmitSide u p b s
  | alt | lenlo | payload | cklo | ckhi => rfl

/-- FEED leaves the transmit side: take the side that `s` has itself in the lemma above. -/
theorem transmitSide_feedByte : transmitSide (feedByte p b s) = transmitSide s :=
  calc transmitSide (feedByte p b s)
      = transmitSide (withTransmitSide (transmitSide s) (feedByte p b s)) :=
        congrArg transmitSide (feedByte_withTransmitSide (transmitSide s) p b s)
    _ = transmitSide s := rfl

end

/-! ### The transmit-side commands (R202 to R206) -/

/-- `g` reads the transmit side only and writes the transmit side only. -/
def OnTransmitSide (g : State → State) : Prop :=
  ∃ f : TransmitSide → TransmitSide, ∀ s, g s = withTransmitSide (f (transmitSide s)) s

theorem onTransmitSide_respond (v : Word) : OnTransmitSide (respond v) :=
  ⟨fun u => { u with rspq := u.rspq ++ [okRsp v] }, fun _ => rfl⟩

theorem onTransmitSide_raise (e : CmdError) : OnTransmitSide (raise e) :=
  ⟨fun u =>
    { u with
      cmderr := u.cmderr || setsCmdErr e
      rspq := u.rspq ++ [{ err := true, data := (errorCode e).setWidth 32 }] }, fun _ => rfl⟩

section
variable {g h : State → State}

theorem OnTransmitSide.comp (hh : OnTransmitSide h) (hg : OnTransmitSide g) : OnTransmitSide fun s => h (g s) := by
  obtain ⟨fh, hh⟩ := hh
  obtain ⟨fg, hg⟩ := hg
  refine ⟨fun u => fh (fg u), fun s => ?_⟩
  dsimp only
  rw [hh, hg]
  rfl

theorem OnTransmitSide.ite (c : TransmitSide → Prop) [DecidablePred c] (hg : OnTransmitSide g)
    (hh : OnTransmitSide h) : OnTransmitSide fun s => if c (transmitSide s) then g s else h s := by
  obtain ⟨fg, hg⟩ := hg
  obtain ⟨fh, hh⟩ := hh
  refine ⟨fun u => if c u then fg u else fh u, fun s => ?_⟩
  dsimp only
  split
  · exact hg s
  · exact hh s

/-- Reading and writing what FEED neither reads nor writes, `g` may come before it or after it. -/
theorem OnTransmitSide.feedByte_comm (hg : OnTransmitSide g) (p : Params) (b : Byte) (s : State) :
    feedByte p b (g s) = g (feedByte p b s) := by
  obtain ⟨f, hf⟩ := hg
  rw [hf, hf, feedByte_withTransmitSide, transmitSide_feedByte]

end

/-- R205. -/
theorem onTransmitSide_txAppend (bs : List Byte) : OnTransmitSide (txAppend bs) := by
  have hpush : OnTransmitSide fun s => { s with txs := s.txs ++ bs } :=
    ⟨fun u => { u with txs := u.txs ++ bs }, fun _ => rfl⟩
  have habort : OnTransmitSide fun s => { s with txs := [], txact := false, flags := { s.flags with txovf := true } } :=
    ⟨fun u => { u with txs := [], txact := false, txovf := true }, fun _ => rfl⟩
  exact .ite (fun u => txMax < u.txs.length + bs.length) ((onTransmitSide_raise .txOverflow).comp habort)
    ((onTransmitSide_respond 0).comp hpush)

/-- R206, with a staged frame. -/
theorem onTransmitSide_sendStaged :
    OnTransmitSide fun s => respond (BitVec.ofNat 32 (encodeFrame s.txs).length)
      { send (encodeFrame s.txs) s with txs := [], txact := false } :=
  ⟨fun u =>
    { u with
      txq := u.txq ++ encodeFrame u.txs, txs := [], txact := false
      rspq := u.rspq ++ [okRsp (BitVec.ofNat 32 (encodeFrame u.txs).length)] }, fun _ => rfl⟩

/-- R203, R204, R206: a command that needs a staged frame is refused without one. -/
theorem OnTransmitSide.ifStaged {g : State → State} (hg : OnTransmitSide g) :
    OnTransmitSide fun s => if s.txact then g s else raise .txNotActive s :=
  hg.ite (fun u => u.txact = true) (onTransmitSide_raise .txNotActive)

theorem exec_staging {i : Instr} (hi : isStaging i = true) :
    ∃ g, OnTransmitSide g ∧ ∀ s, exec i s = .next (g s) := by
  cases i with
  | txbegin cmd =>
    have hstart : OnTransmitSide fun s => { s with txs := bytesOf16 cmd, txact := true } :=
      ⟨fun u => { u with txs := bytesOf16 cmd, txact := true }, fun _ => rfl⟩
    exact ⟨_, (onTransmitSide_respond 0).comp hstart, fun _ => rfl⟩
  | txuint v => exact ⟨_, (onTransmitSide_txAppend (serUint v)).ifStaged, fun _ => rfl⟩
  | txbyte b x => exact ⟨_, (onTransmitSide_txAppend [b]).ifStaged, fun _ => rfl⟩
  | txend => exact ⟨_, onTransmitSide_sendStaged.ifStaged, fun _ => rfl⟩
  | _ => cases hi

/-- Settles O58: the command works on the transmit side, FEED on the rest. -/
theorem stagingCommutesWithFeed : Obligations.StagingCommutesWithFeed := by
  intro s t u b i hi ht hu
  obtain ⟨g, hg, hexec⟩ := exec_staging hi
  rw [hexec] at ht
  rw [exec_feed] at hu
  cases ht
  cases hu
  exact ⟨feedByte Config.params b (g s), exec_feed b _, by rw [hexec, hg.feedByte_comm]⟩

end Sys2Proof.Proofs
